-- ==== Sys2Proof/Word.lean ====
section
/-! DEFINITION. The word types of SPATZ CORE and the element widths its formats are made of
(spec/00_scope.md R7, R9, R10). -/

namespace Sys2Proof

/-- A byte of memory or of a lane-vector slot. -/
abbrev Byte := BitVec 8

/-- A 32-bit value: a command word, a dimension, a range bound or a cursor (00_scope.md R8). -/
abbrev Word := BitVec 32

/-- A 64-bit value: an operand, a response, a scalar container, or the container of an `AW`-bit
address register (00_scope.md R6). -/
abbrev DWord := BitVec 64

/-- The element widths the document fixes, 16, 32 and 64 bits (00_scope.md R7). -/
inductive Width where
  | w16
  | w32
  | w64
deriving DecidableEq, Repr

/-- `EB`, the bytes of one real or imaginary part (00_scope.md R11). -/
abbrev Width.bytes : Width → Nat
  | .w16 => 2
  | .w32 => 4
  | .w64 => 8

/-- `W(code)`, the element width in bits (00_scope.md R10). -/
abbrev Width.bits (w : Width) : Nat := 8 * w.bytes

end Sys2Proof
end

