-- ==== Sys2Proof/Syntax.lean ====
section
/-! DEFINITION. The 14 commands of SPATZ CORE (spec/30_encoding.md R92, R94), one constructor per row of
spec/opcode_table.json. A constructor carries the fields its format uses, as the bits that stand in the
command word (R91); `op_a` is not part of the command word and is never decoded (R90), so it is read from
the state. -/

namespace Sys2Proof

/-- A decoded command word. -/
inductive Instr where
  /-- `nop` (45_dispatch_control.md R212). -/
  | nop
  /-- `sreset` (R213). -/
  | sreset
  /-- `csrw NAME, value` (R214): `csr` is the register number. -/
  | csrw (csr : BitVec 12)
  /-- `csrr NAME` (R215). -/
  | csrr (csr : BitVec 12)
  /-- `vlreq eW, gK, rem` (40_vln.md R123). -/
  | vlreq (ew grp : BitVec 2)
  /-- `cld b0|b1|ws, addr` (41_loadstore.md R132). -/
  | cld (vsel : BitVec 2)
  /-- `cst b0|b1|ws, addr` (R133). -/
  | cst (vsel : BitVec 2)
  /-- `sld sR, addr` (R134). -/
  | sld (row : BitVec 2)
  /-- `czero mask` (42_cmac.md R152). -/
  | czero (mask : BitVec 4)
  /-- `cmac aR, bS` (R153). -/
  | cmac (row : BitVec 2) (buf : BitVec 1)
  /-- `wb aR, addr` (44_writeback.md R201). -/
  | wb (row : BitVec 2)
  /-- `mm2` (43_scheduler.md R181). -/
  | mm2
  /-- `mm4` (R182). -/
  | mm4
  /-- `mm` (45_dispatch_control.md R210). -/
  | mm
deriving DecidableEq, Repr

end Sys2Proof
end

