-- ==== Sys2Proof/WellFormed.lean ====
section
/-! DEFINITION. Which command terms a command word can spell: the extra conditions of
spec/30_encoding.md R94 and R95 (3). Every other field of a constructor takes every value of its width. -/

namespace Sys2Proof

/-- `VLREQ` has `EW ≠ 0`; `CLD` and `CST` have `VSEL ≠ 3` (30_encoding.md R95). -/
def Instr.wellFormed : Instr → Bool
  | .vlreq ew _ => ew != 0
  | .cld vsel => vsel != 3
  | .cst vsel => vsel != 3
  | .nop => true
  | .sreset => true
  | .csrw _ => true
  | .csrr _ => true
  | .sld _ => true
  | .czero _ => true
  | .cmac _ _ => true
  | .wb _ => true
  | .mm2 => true
  | .mm4 => true
  | .mm => true

end Sys2Proof
end

