-- ==== Sys2Proof/Decode.lean ====
section
/-! DEFINITION. Decoding a command word (spec/30_encoding.md R91 to R95), total, with one named reason for
each of the three grounds on which a word is illegal; and the encoder, written from the same table. -/

namespace Sys2Proof

/-- The three grounds of 30_encoding.md R95, in the order they are tried. Each is the fault
`IllegalCmd` to the engine. -/
inductive DecodeError where
  /-- (1) `w[7:0]` is not one of the 14 OPC values. -/
  | unassignedOpcode
  /-- (2) a bit the command's format requires to be zero is one. -/
  | nonzeroUnusedBits
  /-- (3) the extra condition fails: VLREQ with EW = 0, CLD or CST with VSEL = 3. -/
  | reservedOperand
deriving DecidableEq, Repr

/-- OPC, bits 7:0 (R91). -/
def fieldOpc (w : Word) : BitVec 8 := w.extractLsb' 0 8
/-- ROW, bits 9:8 (R91). -/
def fieldRow (w : Word) : BitVec 2 := w.extractLsb' 8 2
/-- VSEL, bits 11:10 (R91). -/
def fieldVsel (w : Word) : BitVec 2 := w.extractLsb' 10 2
/-- VSEL[0], bit 10, the only bit of VSEL in format RB (R91). -/
def fieldVsel0 (w : Word) : BitVec 1 := w.extractLsb' 10 1
/-- MASK, bits 15:12 (R91). -/
def fieldMask (w : Word) : BitVec 4 := w.extractLsb' 12 4
/-- EW, bits 17:16 (R91). -/
def fieldEw (w : Word) : BitVec 2 := w.extractLsb' 16 2
/-- GRP, bits 19:18 (R91). -/
def fieldGrp (w : Word) : BitVec 2 := w.extractLsb' 18 2
/-- CSR, bits 31:20 (R91). -/
def fieldCsr (w : Word) : BitVec 12 := w.extractLsb' 20 12

/-- The formats of R92. -/
inductive WordFormat where
  | Z | C | V | B | R | K | RB
deriving DecidableEq, Repr

/-- The bits each format requires to be zero (R92): Z 31:8; C 19:8; V 15:8 and 31:20; B 9:8 and 31:12;
R 31:10; K 11:8 and 31:16; RB 31:11. -/
def mustBeZero : WordFormat → Word
  | .Z  => 0xFFFFFF00
  | .C  => 0x000FFF00
  | .V  => 0xFFF0FF00
  | .B  => 0xFFFFF300
  | .R  => 0xFFFFFC00
  | .K  => 0xFFFF0F00
  | .RB => 0xFFFFF800

/-- The opcode map of R94: for each of the 14 assigned OPC values, its format and the command that the
word's fields spell. -/
def opcodeMap (w : Word) : Option (WordFormat × Instr) :=
  match (fieldOpc w).toNat with
  | 0x00 => some (.Z, .nop)
  | 0x01 => some (.Z, .sreset)
  | 0x08 => some (.C, .csrw (fieldCsr w))
  | 0x09 => some (.C, .csrr (fieldCsr w))
  | 0x10 => some (.V, .vlreq (fieldEw w) (fieldGrp w))
  | 0x20 => some (.B, .cld (fieldVsel w))
  | 0x21 => some (.B, .cst (fieldVsel w))
  | 0x22 => some (.R, .sld (fieldRow w))
  | 0x30 => some (.K, .czero (fieldMask w))
  | 0x31 => some (.RB, .cmac (fieldRow w) (fieldVsel0 w))
  | 0x38 => some (.R, .wb (fieldRow w))
  | 0x40 => some (.Z, .mm2)
  | 0x41 => some (.Z, .mm4)
  | 0x42 => some (.Z, .mm)
  | _ => none

/-- Decoding a word (R95): opcode, then unused bits, then the extra condition. -/
def decode (w : Word) : Except DecodeError Instr :=
  match opcodeMap w with
  | none => .error .unassignedOpcode
  | some (f, i) =>
    if w &&& mustBeZero f ≠ 0 then .error .nonzeroUnusedBits
    else if i.wellFormed then .ok i
    else .error .reservedOperand

/-- A command record as numbers: `cmd` is bits 31:0 of the record, `op_a` bits 95:32, `op_b` bits 159:96.
The record is not stored in memory (20_memory.md R63); this numbering is the model's (log 5). -/
def recordWords (nbits w : Nat) : Word × DWord × DWord :=
  let r := w % 2 ^ nbits
  (BitVec.ofNat 32 r, BitVec.ofNat 64 (r >>> 32), BitVec.ofNat 64 (r >>> 96))

/-- The instruction the decoder reads from the record whose low `nbits` bits are `w`. -/
def decodeTableWord (nbits w : Nat) : Option Instr := (decode (recordWords nbits w).1).toOption

/-- The command word of an instruction (R91, R94): fields most significant first, zeros where the format
uses no field. -/
def encode : Instr → Word
  | .nop          => 0x00000000
  | .sreset       => 0x00000001
  | .csrw csr     => csr ++ (0x00008 : BitVec 20)
  | .csrr csr     => csr ++ (0x00009 : BitVec 20)
  | .vlreq ew grp => (0 : BitVec 12) ++ grp ++ ew ++ (0x0010 : BitVec 16)
  | .cld vsel     => (0 : BitVec 20) ++ vsel ++ (0x020 : BitVec 10)
  | .cst vsel     => (0 : BitVec 20) ++ vsel ++ (0x021 : BitVec 10)
  | .sld row      => (0 : BitVec 22) ++ row ++ (0x22 : BitVec 8)
  | .czero mask   => (0 : BitVec 16) ++ mask ++ (0x030 : BitVec 12)
  | .cmac row buf => (0 : BitVec 21) ++ buf ++ row ++ (0x31 : BitVec 8)
  | .wb row       => (0 : BitVec 22) ++ row ++ (0x38 : BitVec 8)
  | .mm2          => 0x00000040
  | .mm4          => 0x00000041
  | .mm           => 0x00000042

end Sys2Proof
end

