-- ==== Sys2Proof/Config.lean ====
section
/-! DEFINITION. What an implementation of SPATZ CORE fixes (spec/00_scope.md R8, spec/20_memory.md R66)
and the free values of spec/93_implementation_defined.md (U3, U4, U9). -/

namespace Sys2Proof

/-- Whether a memory request reads or writes. -/
inductive RequestKind where
  | read
  | write
deriving DecidableEq, Repr

end Sys2Proof

namespace Sys2Proof.Config

/-- `AW`, the width of a byte address: 32 or 64 (00_scope.md R8, D5). -/
inductive AddrWidth where
  | aw32
  | aw64
deriving DecidableEq, Repr

/-- `AW` as a number. -/
abbrev AddrWidth.bits : AddrWidth → Nat
  | .aw32 => 32
  | .aw64 => 64

/-- Requests the platform's memory answers with an error: those of kind `kind` and width `width` whose
address lies in `[base, base + size)`. A list of such ranges is the predicate `admits(addr, n)` of
20_memory.md R66, for reads and for writes, written as plain data (log 2). -/
structure RefusedRange where
  kind  : RequestKind
  base  : Nat
  size  : Nat
  width : Width
deriving DecidableEq, Repr

/-- The named parameters of the model (00_scope.md R8): `VLEN = 64 · 2^vlenExp` is a power of two from
64 to 65536 by construction. They are held in the state and no step changes them (log 1). -/
structure Params where
  vlenExp : Fin 11
  aw      : AddrWidth
  refused : List RefusedRange
deriving DecidableEq, Repr

/-- `VLEN`, the bits of one lane-vector register at grouping 1. It is also the number of BYTES of one
slot, since `SLOTBITS = 8 · VLEN` (00_scope.md R8). -/
def Params.vlen (p : Params) : Nat := 64 * 2 ^ p.vlenExp.val

/-- The parameters of every test vector of 95_test_vectors.md: `VLEN = 128`, `AW = 32`, a memory that
admits every request. DESIGN CHOICE (logs 1 and 2); unsafe where a statement is made of the reset
state alone. -/
def Params.vectors : Params := { vlenExp := 1, aw := .aw32, refused := [] }

/-- Byte `k` of the `n`-th free draw into a lane-vector slot (U3, U4): nothing constrains it. -/
opaque freeByte (n k : Nat) : Byte

/-- The `n`-th free draw into a scalar coefficient container (U3, U4): nothing constrains it. -/
opaque freeContainer (n : Nat) : DWord

end Sys2Proof.Config
end

