-- ==== Sys2Proof/Machine/State.lean ====
section
/-! DEFINITION. The state of one SPATZ CORE engine (spec/10_state.md R20 to R44), with the memory, the
stream of the host side and the interface logs that a step reads or writes, all as plain data; the ways a
step could stop; the state after reset. -/

namespace Sys2Proof.Machine

/-- A lane-vector slot, a string of `SLOTBITS = 8 · VLEN` bits (10_state.md R22), held as its `VLEN` bytes:
byte `k` is bits `[8k+7 : 8k]`. -/
abbrev Slot := List Byte

/-- A complex lane vector: the pair (`.re`, `.im`) of one slot name (R22). -/
structure LanePair where
  re : Slot
  im : Slot
deriving DecidableEq, Repr

/-- A scalar coefficient register: two 64-bit containers (R25). -/
structure Coefficient where
  re : DWord
  im : DWord
deriving DecidableEq, Repr

/-- The recorded cause of a fault (60_exceptions.md R262). Codes 7 to 15 do not exist. -/
inductive Cause where
  | none
  | illegalCmd
  | illegalCsr
  | illegalCfg
  | vcfgMismatch
  | misaligned
  | accessFault
deriving DecidableEq, Repr

/-- The memory, as the bytes that differ from what an unlisted address reads as, addresses strictly
rising (20_memory.md R60). -/
abbrev Memory := List Host.Cell

/-- One record of the command interface (00_scope.md R6, 30_encoding.md R90). -/
structure Command where
  cmd : Word
  opA : DWord
  opB : DWord
deriving DecidableEq, Repr

/-- One record of the response interface (30_encoding.md R100). -/
structure Response where
  data  : DWord
  fault : Bool
deriving DecidableEq, Repr

/-- One request on the memory interface (20_memory.md R65): `width.bytes` bytes at `addr`. `data` is the
value read or written, zero-extended; `ok` is false where the memory answered with an error. -/
structure Request where
  kind  : RequestKind
  addr  : Nat
  width : Width
  data  : DWord
  ok    : Bool
deriving DecidableEq, Repr

/-- A hardware reset that powers the engine on, or one of a running engine (70_reset_and_hazards.md R290,
R291). -/
inductive ResetKind where
  | powerOn
  | warm
deriving DecidableEq, Repr

/-- What the world outside the engine does next: the host issues a command; an external agent writes one
byte of memory between commands (00_scope.md R5); hardware reset; hardware reset in the middle of a
command, after the first `requests` of its memory requests, with `work` saying how far the lane slots and
`SCAL` had got (70_reset_and_hazards.md R290, log 8). -/
inductive Input where
  | command (c : Command)
  | external (addr : Nat) (b : Byte)
  | reset (k : ResetKind)
  | resetDuring (k : ResetKind) (c : Command) (requests work : Nat)
deriving DecidableEq, Repr

structure State where
  /-- The parameters of the implementation; no step changes them (00_scope.md R8). -/
  params    : Config.Params
  /-- `ACC[0..3]` (R23). -/
  acc       : Vector LanePair 4
  /-- `BBUF[0..1]` (R24). -/
  bbuf      : Vector LanePair 2
  /-- `WBS` (R26). -/
  wbs       : LanePair
  /-- `SCAL[0..3]` (R25). -/
  scal      : Vector Coefficient 4
  /-- The negotiated configuration (R29). -/
  vl        : Word
  vsew      : BitVec 2
  vgrp      : BitVec 2
  vlvalid   : Bool
  /-- `CUR`, the operand buffer that is ready to consume (R24, R34). -/
  cur       : BitVec 1
  /-- `RBF`, the row-block factor of the last job that passed its checks (R34). -/
  rbf       : Bool
  /-- The fault state (R35). -/
  fault     : Bool
  cause     : Cause
  fcmd      : Word
  faddr     : DWord
  /-- The job registers (R30, R37 to R39); an address register holds its low `AW` bits. -/
  fmt       : Word
  cbase     : DWord
  abase     : DWord
  bbase     : DWord
  dimM      : Word
  dimN      : Word
  dimP      : Word
  mStart    : Word
  mEnd      : Word
  pStart    : Word
  pEnd      : Word
  /-- The cursors of the scheduler (R27, R40). -/
  pCur      : Word
  mCur      : Word
  nCur      : Word
  /-- The memory (20_memory.md R60). -/
  mem       : Memory
  /-- The command record being executed (00_scope.md R6). -/
  port      : Command
  /-- What the host side does next, first element first. -/
  inputs    : List Input
  /-- The model's own field: the responses returned so far, newest first. -/
  responses : List Response
  /-- The model's own field: the memory requests made so far, newest first. -/
  trace     : List Request
  /-- The model's own field: how many free values have been drawn. -/
  draws     : Nat
deriving DecidableEq, Repr

/-- The reasons for which a step ends in `Outcome.fault`: there are none. What the spec calls a fault is a
next state in which the fault registers are written (60_exceptions.md R265), and every address of the
space exists (20_memory.md R60, R69); a refused request is the engine's `AccessFault` (R66). Safe. -/
inductive Fault where
deriving DecidableEq, Repr

/-- The reasons for which an instruction has no meaning. -/
inductive Refusal where
  /-- Raised by an arm of `exec` for an instruction that has no meaning yet, by its mnemonic; no arm does.
  Safe: nothing follows of such a step. -/
  | notModelled (mnemonic : String)
deriving DecidableEq, Repr

/-- A lane pair of zero bits. -/
def LanePair.blank (p : Config.Params) : LanePair :=
  { re := List.replicate p.vlen 0, im := List.replicate p.vlen 0 }

/-- The state after a power-on reset (10_state.md R44) of an engine with parameters `p` whose slots and
coefficient containers hold the given bits, which the spec leaves open (93_implementation_defined.md U3). -/
def State.powerOn (p : Config.Params) (acc : Vector LanePair 4) (bbuf : Vector LanePair 2)
    (wbs : LanePair) (scal : Vector Coefficient 4) : State where
  params := p
  acc := acc
  bbuf := bbuf
  wbs := wbs
  scal := scal
  vl := 0
  vsew := 0
  vgrp := 0
  vlvalid := false
  cur := 0
  rbf := false
  fault := false
  cause := .none
  fcmd := 0
  faddr := 0
  fmt := 0
  cbase := 0
  abase := 0
  bbase := 0
  dimM := 0
  dimN := 0
  dimP := 0
  mStart := 0
  mEnd := 0
  pStart := 0
  pEnd := 0
  pCur := 0
  mCur := 0
  nCur := 0
  mem := []
  port := { cmd := 0, opA := 0, opB := 0 }
  inputs := []
  responses := []
  trace := []
  draws := 0

/-- The machine right after reset: the parameters of the test vectors, and zero bits where R44 leaves
the contents unspecified. DESIGN CHOICE (logs 1 to 5), unsafe. -/
def State.reset : State :=
  .powerOn .vectors (Vector.replicate 4 (.blank .vectors)) (Vector.replicate 2 (.blank .vectors))
    (.blank .vectors) (Vector.replicate 4 { re := 0, im := 0 })

end Sys2Proof.Machine
end

