-- ==== Sys2Proof/Machine/Bytes.lean ====
section
/-! DEFINITION. Bytes and values: little-endian composition (spec/20_memory.md R62), the memory read and
written by the byte, and the lanes of a slot (spec/00_scope.md R10, spec/10_state.md R22). -/

namespace Sys2Proof.Machine

/-- The `n`-byte value whose bits `[8k+7 : 8k]` are byte `k` (20_memory.md R62). -/
def leValue : (n : Nat) → (Nat → Byte) → BitVec (8 * n)
  | 0, _ => 0#0
  | n + 1, f => (leValue n (fun k => f (k + 1)) ++ f 0 : BitVec (8 * n + 8))

/-- Byte `k` of a value, its bits `[8k+7 : 8k]` (20_memory.md R62). -/
def leByte {n : Nat} (v : BitVec n) (k : Nat) : Byte := v.extractLsb' (8 * k) 8

/-- What a byte of memory reads as when nothing has been written to it. The spec gives memory no contents.
DESIGN CHOICE (log 4), unsafe: 0, as 95_test_vectors.md takes it. -/
def Memory.unlisted : Byte := 0

/-- The byte at an address. -/
def Memory.read : Memory → Nat → Byte
  | [], _ => Memory.unlisted
  | (k, b) :: m, a => if k = a then b else Memory.read m a

/-- The memory with no entry for address `a`. -/
def Memory.erase (m : Memory) (a : Nat) : Memory := m.filter (fun c => c.1 != a)

/-- An entry put before the first greater address. -/
def Memory.insert : Memory → Nat → Byte → Memory
  | [], a, b => [(a, b)]
  | (k, c) :: m, a, b => if a < k then (a, b) :: (k, c) :: m else (k, c) :: Memory.insert m a b

/-- One byte written, the canonical form kept: a byte equal to what an unlisted address reads as is not
listed. -/
def Memory.write (m : Memory) (a : Nat) (b : Byte) : Memory :=
  if b = Memory.unlisted then m.erase a else (m.erase a).insert a b

/-- The canonical form: addresses strictly rising, no entry equal to what an unlisted address reads as. -/
def Memory.wf : Memory → Bool
  | [] => true
  | (k, b) :: m => b != Memory.unlisted && m.all (fun c => decide (k < c.1)) && Memory.wf m

/-- `MemRead(a, n)` as a value, in a space of `size` bytes: byte `k` is at `(a + k) mod size`
(20_memory.md R62). -/
def Memory.readValue (m : Memory) (size a n : Nat) : BitVec (8 * n) :=
  leValue n (fun k => m.read ((a + k) % size))

/-- The first `n` bytes of `v`, lowest first, stored at `a`, `a + 1`, ... modulo `size`
(20_memory.md R62). -/
def Memory.writeBytes (m : Memory) (size a : Nat) {b : Nat} (v : BitVec b) : Nat → Memory
  | 0 => m
  | n + 1 => (m.writeBytes size a v n).write ((a + n) % size) (leByte v n)

/-- `MemWrite(a, n, v)`: the low `8n` bits of `v` stored at `a`, little-endian (20_memory.md R62). -/
def Memory.writeValue (m : Memory) (size a n : Nat) (v : BitVec (8 * n)) : Memory :=
  m.writeBytes size a v n

/-- Byte `k` of a slot; a slot has none beyond its length. -/
def Slot.byte (S : Slot) (k : Nat) : Byte := S.getD k 0

/-- `lane(S, W, i)`: the bits `[(i+1)·W − 1 : i·W]` of the slot (00_scope.md R10). -/
def Slot.lane (S : Slot) (w : Width) (i : Nat) : BitVec w.bits :=
  leValue w.bytes (fun k => Slot.byte S (i * w.bytes + k))

/-- The first `n` bytes of `v` put at byte position `o` of a slot; every other byte keeps its value. -/
def Slot.put (S : Slot) (o : Nat) {b : Nat} (v : BitVec b) : Nat → Slot
  | 0 => S
  | n + 1 => (Slot.put S o v n).set (o + n) (leByte v n)

/-- `lane(S, W, i) <- v`: exactly those `W` bits are replaced (00_scope.md R10). -/
def Slot.setLane (S : Slot) (w : Width) (i : Nat) (v : BitVec w.bits) : Slot :=
  Slot.put S (i * w.bytes) v w.bytes

/-- The slot with its first `n` bytes free (10_state.md R44, 20_memory.md R66). -/
def Slot.free (S : Slot) (draw n : Nat) : Slot :=
  S.mapIdx (fun k b => if k < n then Config.freeByte draw k else b)

end Sys2Proof.Machine
end

