-- ==== Sys2Proof/Machine/Operands.lean ====
section
/-! DEFINITION. Operands: the quantities every rule derives from FMT (spec/00_scope.md R11), the forms of
`op_a` (spec/30_encoding.md R93), register and slot selection (R91), and the addresses of the matrix views
(spec/20_memory.md R67, R68). -/

namespace Sys2Proof

/-- The 2-bit code of a width: `W(code) = 8 · 2^code` (00_scope.md R10). -/
def Width.code : Width → BitVec 2
  | .w16 => 1
  | .w32 => 2
  | .w64 => 3

/-- The width of a code; code 0 names none (00_scope.md R10, 10_state.md R30). -/
def Width.ofCode (c : BitVec 2) : Option Width :=
  match c.toNat with
  | 1 => some .w16
  | 2 => some .w32
  | 3 => some .w64
  | _ => none

/-- Twice the width (00_scope.md R8). A double has no wider format; no legal FMT asks for one
(10_state.md R30, log 10). -/
def Width.wider : Width → Width
  | .w16 => .w32
  | .w32 => .w64
  | .w64 => .w64

end Sys2Proof

namespace Sys2Proof.Machine

/-- `VLMAX(ew, grp) = (2^grp · VLEN) / W(ew)` (40_vln.md R121); `W(ew) = 8 · 2^ew` bits. -/
def vlmax (p : Config.Params) (ew grp : BitVec 2) : Nat :=
  2 ^ grp.toNat * p.vlen / (8 * 2 ^ ew.toNat)

/-- A value is a legal FMT iff `v[31:5] = 0`, `v[1:0] ≠ 0`, not (WIDEN and SEW = 3), not (WIDEN and G = 3)
(10_state.md R30). -/
def legalFmt (v : Word) : Bool :=
  v.extractLsb' 5 27 == 0 && v.extractLsb' 0 2 != 0
    && !(v.getLsbD 2 && v.extractLsb' 0 2 == 3) && !(v.getLsbD 2 && v.extractLsb' 3 2 == 3)

/-- What FMT says (00_scope.md R11): the storage width `Ws`, the accumulator width `Wa`, WIDEN and `G`. -/
structure Format where
  storage : Width
  acc     : Width
  widen   : Bool
  grp     : BitVec 2
deriving DecidableEq, Repr

/-- `EB`, bytes of one part (00_scope.md R11). -/
def Format.eb (f : Format) : Nat := f.storage.bytes

/-- `CB = 2 · EB`, bytes of one complex element (00_scope.md R11). -/
def Format.cb (f : Format) : Nat := 2 * f.eb

/-- The format a value of FMT selects; none while SEW = 0, unconfigured (10_state.md R30). -/
def formatOf (v : Word) : Option Format :=
  (Width.ofCode (v.extractLsb' 0 2)).map fun w =>
    { storage := w
      acc := if v.getLsbD 2 then w.wider else w
      widen := v.getLsbD 2
      grp := v.extractLsb' 3 2 }

/-- The format in force, if FMT is configured (41_loadstore.md R131 (2)). -/
def State.format (s : State) : Option Format := formatOf s.fmt

/-- The size of the address space, `2^AW` bytes (20_memory.md R60). -/
def State.space (s : State) : Nat := 2 ^ s.params.aw.bits

/-- `op_a[AW−1:0]`, an address operand (30_encoding.md R93, 20_memory.md R67). -/
def State.addrOperand (s : State) : Nat := s.port.opA.toNat % s.space

/-- A 64-bit value truncated to an address register (10_state.md R31, D38). -/
def State.truncAddr (s : State) (v : DWord) : DWord := BitVec.ofNat 64 (v.toNat % s.space)

/-- `op_a` truncated to a 32-bit register (10_state.md R31, D38). -/
def State.wordOperand (s : State) : Word := s.port.opA.setWidth 32

/-- The address of the real part of element `i` of a vector access at `a` (20_memory.md R70, R71). -/
def State.reAddr (s : State) (f : Format) (a i : Nat) : Nat := (a + 2 * i * f.eb) % s.space

/-- The address of the imaginary part of element `i` of a vector access at `a` (20_memory.md R70, R71). -/
def State.imAddr (s : State) (f : Format) (a i : Nat) : Nat := (a + (2 * i + 1) * f.eb) % s.space

/-- `addrA(i, k)`, coefficient `A[i][k]` (20_memory.md R68). -/
def State.addrA (s : State) (f : Format) (i k : Nat) : Nat :=
  (s.abase.toNat + (i * s.dimN.toNat + k) * f.cb) % s.space

/-- `addrB(k, j)`, the first element of a B tile at column `j` of row `k` (20_memory.md R68). -/
def State.addrB (s : State) (f : Format) (k j : Nat) : Nat :=
  (s.bbase.toNat + (k * s.dimP.toNat + j) * f.cb) % s.space

/-- `addrC(i, j)`, the first element of a C tile at column `j` of row `i` (20_memory.md R68). -/
def State.addrC (s : State) (f : Format) (i j : Nat) : Nat :=
  (s.cbase.toNat + (i * s.dimP.toNat + j) * f.cb) % s.space

/-- The complex lane vectors a load or store can name (30_encoding.md R91, 41_loadstore.md R135). -/
inductive SlotName where
  | bbuf (s : BitVec 1)
  | wbs
deriving DecidableEq, Repr

/-- VSEL: 0 `BBUF[0]`, 1 `BBUF[1]`, 2 `WBS`, 3 reserved (30_encoding.md R91). -/
def slotOfVsel (v : BitVec 2) : Option SlotName :=
  match v.toNat with
  | 0 => some (.bbuf 0)
  | 1 => some (.bbuf 1)
  | 2 => some .wbs
  | _ => none

/-- `ACC[r]`. -/
def State.accRow (s : State) (r : BitVec 2) : LanePair := s.acc[r.toNat]'r.isLt

/-- `ACC[r] <- x`. -/
def State.setAccRow (s : State) (r : BitVec 2) (x : LanePair) : State :=
  { s with acc := s.acc.set r.toNat x r.isLt }

/-- `SCAL[r]`. -/
def State.scalRow (s : State) (r : BitVec 2) : Coefficient := s.scal[r.toNat]'r.isLt

/-- `SCAL[r] <- x`. -/
def State.setScalRow (s : State) (r : BitVec 2) (x : Coefficient) : State :=
  { s with scal := s.scal.set r.toNat x r.isLt }

/-- The lane pair of a named slot. -/
def State.slot (s : State) : SlotName → LanePair
  | .bbuf b => s.bbuf[b.toNat]'b.isLt
  | .wbs => s.wbs

/-- The lane pair of a named slot replaced. -/
def State.setSlot (s : State) (n : SlotName) (x : LanePair) : State :=
  match n with
  | .bbuf b => { s with bbuf := s.bbuf.set b.toNat x b.isLt }
  | .wbs => { s with wbs := x }

/-- A lane pair with element `i` replaced at width `w`: lane `i` of `.re` and lane `i` of `.im`
(10_state.md R22). -/
def LanePair.setElement (x : LanePair) (w : Width) (i : Nat) (re im : BitVec w.bits) : LanePair :=
  { re := Slot.setLane x.re w i re, im := Slot.setLane x.im w i im }

/-- A lane pair whose first `n` bytes are free; draw `d` for `.re`, `d + 1` for `.im` (log 7). -/
def LanePair.free (x : LanePair) (d n : Nat) : LanePair :=
  { re := Slot.free x.re d n, im := Slot.free x.im (d + 1) n }

end Sys2Proof.Machine
end

