-- ==== Sys2Proof/Machine/Flags.lean ====
section
/-! DEFINITION. The flags and the registers that show them: STATUS, VCFG, CAUSE, IMPL
(spec/10_state.md R33 to R36, R41). The engine has no arithmetic flag, so no other computation of a flag
exists (R41, spec/46_numerics.md R245). -/

namespace Sys2Proof.Machine

/-- The cause codes (60_exceptions.md R262). -/
def Cause.code : Cause → BitVec 4
  | .none => 0
  | .illegalCmd => 1
  | .illegalCsr => 2
  | .illegalCfg => 3
  | .vcfgMismatch => 4
  | .misaligned => 5
  | .accessFault => 6

/-- STATUS reads `29'b0, RBF, CUR, FAULT` (10_state.md R34). -/
def State.statusWord (s : State) : Word :=
  (0 : BitVec 29) ++ BitVec.ofBool s.rbf ++ s.cur ++ BitVec.ofBool s.fault

/-- VCFG reads `27'b0, VLVALID, VGRP, VSEW` (10_state.md R33). -/
def State.vcfgWord (s : State) : Word :=
  (0 : BitVec 27) ++ BitVec.ofBool s.vlvalid ++ s.vgrp ++ s.vsew

/-- CAUSE reads the code in bits 3:0, other bits zero (10_state.md R35). -/
def State.causeWord (s : State) : Word := (0 : BitVec 28) ++ s.cause.code

/-- IMPL reads `VLEN` in bits 31:0, `AW` in bits 39:32, zero above (10_state.md R36). -/
def State.implWord (s : State) : DWord :=
  (0 : BitVec 24) ++ BitVec.ofNat 8 s.params.aw.bits ++ BitVec.ofNat 32 s.params.vlen

/-- `vcfg_ok(c, storage_governed)`: a length has been negotiated, at the width the command works at, and
not a widened storage-governed command at grouping 8 (40_vln.md R124). -/
def State.vcfgOk (s : State) (f : Format) (c : BitVec 2) (storageGoverned : Bool) : Bool :=
  s.vlvalid && s.vsew == c && !(storageGoverned && f.widen && s.vgrp == 3)

end Sys2Proof.Machine
end

