-- ==== Sys2Proof/Machine/Numerics.lean ====
section
/-! DEFINITION. Floating-point numerics (spec/46_numerics.md R230 to R246). A finite value of a format is an
integer number of its smallest steps `2^(emin − m)`, so sums and products are formed exactly on integers
and rounded once (R234). -/

namespace Sys2Proof

/-- Exponent bits `e` (R230). -/
def Width.expBits : Width → Nat
  | .w16 => 5
  | .w32 => 8
  | .w64 => 11

/-- Fraction bits `m` (R230). -/
def Width.fracBits : Width → Nat
  | .w16 => 10
  | .w32 => 23
  | .w64 => 52

/-- `m − emin`: the smallest step of the format, the spacing of its subnormals, is `2^(emin − m)`
(R230, R231). -/
def Width.scale : Width → Nat
  | .w16 => 24
  | .w32 => 149
  | .w64 => 1074

/-- The exponent field of infinities and NaNs, all ones (R231). -/
def Width.expOnes (w : Width) : Nat := 2 ^ w.expBits - 1

end Sys2Proof

namespace Sys2Proof.Machine

/-- The meaning of a pattern (R231). A finite value is `(−1)^neg · mag · 2^(emin − m)`. -/
inductive FpValue where
  | nan
  | inf (neg : Bool)
  | fin (neg : Bool) (mag : Nat)
deriving DecidableEq, Repr

/-- R231: zero and subnormal `F`, normal `(2^m + F) · 2^(E − 1)` steps, infinity, NaN. -/
def fpValue (w : Width) (x : BitVec w.bits) : FpValue :=
  let frac := x.toNat % 2 ^ w.fracBits
  let expo := x.toNat / 2 ^ w.fracBits % 2 ^ w.expBits
  if expo = w.expOnes then
    if frac = 0 then .inf x.msb else .nan
  else if expo = 0 then .fin x.msb frac
  else .fin x.msb ((2 ^ w.fracBits + frac) * 2 ^ (expo - 1))

/-- The pattern with the given sign bit and the given number in its other bits. -/
def fpPattern (w : Width) (neg : Bool) (mag : Nat) : BitVec w.bits :=
  BitVec.ofNat w.bits ((if neg then 2 ^ (w.bits - 1) else 0) + mag)

/-- The infinity of a sign. -/
def infinity (w : Width) (neg : Bool) : BitVec w.bits :=
  fpPattern w neg (w.expOnes * 2 ^ w.fracBits)

/-- The canonical NaN (R233). -/
def canonicalNaN (w : Width) : BitVec w.bits :=
  fpPattern w false (w.expOnes * 2 ^ w.fracBits + 2 ^ (w.fracBits - 1))

/-- The integer nearest to `n / 2^d`, the even one of the two at half way (R234). -/
def nearestEven (n d : Nat) : Nat :=
  let q := n / 2 ^ d
  let r := n % 2 ^ d
  if 2 ^ d < 2 * r ∨ (2 * r = 2 ^ d ∧ q % 2 = 1) then q + 1 else q

/-- `log2 (u · 2^s)` for the spacing `u` of format values at `n · 2^(−s)`: with `q = max(⌊log2 x⌋, emin)`
the spacing is `2^(q − m)` (R234). -/
def spacing (w : Width) (s n : Nat) : Nat :=
  max (n.log2 - w.fracBits) (s - w.scale)

/-- The magnitude bits of `round_W` of `n · 2^(−s)`, for `s ≥ scale` (R234). With `k` the nearest multiple of
the spacing and `t` how many doublings the spacing is above the smallest step, the encoding of `k · u` by
R231 is the number `t · 2^m + k`, also for subnormals (`t = 0`, `k < 2^m`) and for `k = 2^(m+1)`; from the
encoding of infinity on, the result is infinity. -/
def roundMagnitude (w : Width) (s n : Nat) : Nat :=
  let d := spacing w s n
  let k := nearestEven n d
  let t := d - (s - w.scale)
  min (t * 2 ^ w.fracBits + k) (w.expOnes * 2 ^ w.fracBits)

/-- `(−1)^neg · n`. -/
def signed (neg : Bool) (n : Nat) : Int := if neg then -(n : Int) else n

/-- The exact sum of two finite numbers of steps `2^(−s)`, rounded once; an exact zero has the sign of R238:
that of the addends if both are zeros of one sign, else plus. -/
def roundSum (w : Width) (s : Nat) (neg1 : Bool) (n1 : Nat) (neg2 : Bool) (n2 : Nat) : BitVec w.bits :=
  let x := signed neg1 n1 + signed neg2 n2
  if x = 0 then fpPattern w (n1 = 0 && n2 = 0 && neg1 && neg2) 0
  else fpPattern w (decide (x < 0)) (roundMagnitude w s x.natAbs)

/-- The sign `ps` of the product, inverted for the negate-subtract form (R236 step 3, R237). -/
def productSign (negate sa sb : Bool) : Bool := (sa != sb) != negate

/-- An infinite product of sign `ps` plus `c` (R236 step 3). -/
def addToInfinity (w : Width) (ps : Bool) : FpValue → BitVec w.bits
  | .nan => canonicalNaN w
  | .inf sc => if sc = ps then infinity w ps else canonicalNaN w
  | .fin _ _ => infinity w ps

/-- `±(a · b) + c` with one rounding: R236, and R237 with `negate`, where the product's sign is inverted. -/
def fusedMultiplyAdd (w : Width) (negate : Bool) (a b c : BitVec w.bits) : BitVec w.bits :=
  match fpValue w a, fpValue w b, fpValue w c with
  | .nan, _, _ => canonicalNaN w
  | _, .nan, _ => canonicalNaN w
  | _, _, .nan => canonicalNaN w
  | .inf sa, .inf sb, vc => addToInfinity w (productSign negate sa sb) vc
  | .inf sa, .fin sb nb, vc =>
    if nb = 0 then canonicalNaN w else addToInfinity w (productSign negate sa sb) vc
  | .fin sa na, .inf sb, vc =>
    if na = 0 then canonicalNaN w else addToInfinity w (productSign negate sa sb) vc
  | .fin _ _, .fin _ _, .inf sc => infinity w sc
  | .fin sa na, .fin sb nb, .fin sc nc =>
    roundSum w (2 * w.scale) (productSign negate sa sb) (na * nb) sc (nc * 2 ^ w.scale)

/-- `fma_W(a, b, c) = a·b + c` (R236). -/
def fma (w : Width) (a b c : BitVec w.bits) : BitVec w.bits := fusedMultiplyAdd w false a b c

/-- `fnma_W(a, b, c) = −(a·b) + c` (R237). -/
def fnma (w : Width) (a b c : BitVec w.bits) : BitVec w.bits := fusedMultiplyAdd w true a b c

/-- `fadd_W(a, b)` (R239). -/
def fadd (w : Width) (a b : BitVec w.bits) : BitVec w.bits :=
  match fpValue w a, fpValue w b with
  | .nan, _ => canonicalNaN w
  | _, .nan => canonicalNaN w
  | .inf sa, .inf sb => if sa = sb then infinity w sa else canonicalNaN w
  | .inf sa, .fin _ _ => infinity w sa
  | .fin _ _, .inf sb => infinity w sb
  | .fin sa na, .fin sb nb => roundSum w (w.scale) sa na sb nb

/-- `promote(a, Wn, Ww)` (R240). A finite narrow value is an integer number of wide steps, so the rounding
is the identity. -/
def promote (wn ww : Width) (a : BitVec wn.bits) : BitVec ww.bits :=
  match fpValue wn a with
  | .nan => canonicalNaN ww
  | .inf s => infinity ww s
  | .fin s n => fpPattern ww s (roundMagnitude ww ww.scale (n * 2 ^ (ww.scale - wn.scale)))

/-- `narrow(a, Ww, Wn)` (R241): rounded to nearest even, to infinity on overflow, a signed zero or a subnormal
on underflow. -/
def narrow (ww wn : Width) (a : BitVec ww.bits) : BitVec wn.bits :=
  match fpValue ww a with
  | .nan => canonicalNaN wn
  | .inf s => infinity wn s
  | .fin s n => fpPattern wn s (roundMagnitude wn ww.scale n)

end Sys2Proof.Machine
end

