-- ==== Sys2Proof/Machine/Ops.lean ====
section
/-! DEFINITION. The shared operations: responses, raising and refusing (spec/60_exceptions.md R265, R267), the
two resets (spec/10_state.md R44), memory requests (spec/20_memory.md R62, R65, R66), the checks common to the
lane commands (spec/41_loadstore.md R131), negotiation (spec/40_vln.md R122), and the units' functions
`vload`, `vstore`, `sload`, `czero`, `cmac`, `writeback`. -/

namespace Sys2Proof.Machine

/-- `respond(d)`: the command ends with `data = d`, `fault = 0` (00_scope.md R10, 30_encoding.md R100). -/
def State.respond (s : State) (d : DWord) : State :=
  { s with responses := { data := d, fault := false } :: s.responses }

/-- A command refused in the fault state: no state changes, the answer is `(0, fault = 1)`
(60_exceptions.md R267). -/
def State.refuse (s : State) : State :=
  { s with responses := { data := 0, fault := true } :: s.responses }

/-- TAKING THE EXCEPTION. `raise F(info)`: with `FAULT = 0` the fault state is written from the cause, the
command word and the address (causes 5 and 6 only); with `FAULT = 1` nothing changes; the command ends
with `(0, fault = 1)`; no control is transferred (60_exceptions.md R265, R267). -/
def State.raiseFault (s : State) (c : Cause) (info : Nat) : State :=
  if s.fault then s.refuse
  else
    State.refuse
      { s with
        fault := true
        cause := c
        fcmd := s.port.cmd
        faddr := if c = .misaligned ∨ c = .accessFault then BitVec.ofNat 64 info else 0 }

/-- THE RETURN FROM IT. The reset state of 10_state.md R44, except that the lane-vector slots and `SCAL` keep
their bits (45_dispatch_control.md R213): the only way besides hardware reset to leave the fault state
(60_exceptions.md R268). Memory and what lies outside the engine are not touched. -/
def State.softReset (s : State) : State :=
  { State.powerOn s.params s.acc s.bbuf s.wbs s.scal with
    mem := s.mem
    port := s.port
    inputs := s.inputs
    responses := s.responses
    trace := s.trace
    draws := s.draws }

/-- Every slot and every coefficient container free, as after a power-on (10_state.md R44): 22 draws. -/
def State.freeSlots (s : State) : State :=
  let n := s.draws
  let v := s.params.vlen
  { s with
    acc := s.acc.mapIdx fun i x => x.free (n + 2 * i) v
    bbuf := s.bbuf.mapIdx fun i x => x.free (n + 8 + 2 * i) v
    wbs := s.wbs.free (n + 12) v
    scal := s.scal.mapIdx fun i _ =>
      { re := Config.freeContainer (n + 14 + 2 * i), im := Config.freeContainer (n + 15 + 2 * i) }
    draws := n + 22 }

/-- Hardware reset (70_reset_and_hazards.md R290, R291): the state of R44; slots and `SCAL` free after a
power-on, kept by a warm reset. -/
def State.hardReset (s : State) : ResetKind → State
  | .powerOn => s.softReset.freeSlots
  | .warm => s.softReset

/-- How a micro-operation or a command ends: done, with a fault raised (00_scope.md R10), or cut by a hardware
reset right before a memory request (70_reset_and_hazards.md R290). -/
inductive Micro where
  | done (s : State)
  | raised (c : Cause) (info : Nat) (s : State)
  | cut (s : State)
deriving DecidableEq, Repr

/-- The state reached, however it ended. -/
def Micro.state : Micro → State
  | .done s => s
  | .raised _ _ s => s
  | .cut s => s

/-- The next micro-operation, if the one before raised no fault (43_scheduler.md R187). -/
def Micro.andThen (m : Micro) (k : State → Micro) : Micro :=
  match m with
  | .done s => k s
  | .raised c info s => .raised c info s
  | .cut s => .cut s

/-- The end of a command: `respond(0)`, or the fault is raised (00_scope.md R10). A command that is cut gives
no response (70_reset_and_hazards.md R290). -/
def Micro.finish : Micro → State
  | .done s => s.respond 0
  | .raised c info s => s.raiseFault c info
  | .cut s => s

/-- Every command but CSRR and SRESET is refused in the fault state (60_exceptions.md R267). -/
def State.unlessFaulted (s : State) (run : State → State) : State :=
  if s.fault then s.refuse else run s

/-! ### Memory requests

A command that runs to its end has no limit: `stop = none`. For a hardware reset in the middle of a command the
same functions run with `stop = some n`: they are cut before the request that would be number `n` of the
trace, counted from 0. -/

/-- `admits(addr, n)`: whether the platform's memory answers a request of that kind, address and size
(20_memory.md R66). -/
def State.admits (s : State) (kind : RequestKind) (addr : Nat) (w : Width) : Bool :=
  !s.params.refused.any fun r =>
    r.kind == kind && r.width == w && decide (r.base ≤ addr ∧ addr < r.base + r.size)

/-- A request recorded on the memory interface. -/
def State.logRequest (s : State) (r : Request) : State := { s with trace := r :: s.trace }

/-- The value a read request of `w.bytes` bytes at `addr` returns (20_memory.md R62). -/
def State.loadValue (s : State) (addr : Nat) (w : Width) : BitVec w.bits :=
  s.mem.readValue s.space addr w.bytes

/-- The answer to a read: data, or an error (20_memory.md R66); none where the request is not made. -/
inductive ReadAnswer (w : Width) where
  | data (v : BitVec w.bits) (s : State)
  | error (s : State)
  | cut (s : State)
deriving DecidableEq, Repr

/-- `MemRead(addr, w.bytes)`: one request (20_memory.md R62, R65, R66). -/
def State.memRead (s : State) (stop : Option Nat) (addr : Nat) (w : Width) : ReadAnswer w :=
  if stop = some s.trace.length then .cut s
  else if s.admits .read addr w then
    let v := s.loadValue addr w
    .data v (s.logRequest { kind := .read, addr := addr, width := w, data := v.setWidth 64, ok := true })
  else
    .error (s.logRequest { kind := .read, addr := addr, width := w, data := 0, ok := false })

/-- `MemWrite(addr, w.bytes, v)`: one request, done or refused with `AccessFault(addr)`
(20_memory.md R62, R65, R66). -/
def State.memWrite (s : State) (stop : Option Nat) (addr : Nat) (w : Width) (v : BitVec w.bits) : Micro :=
  let r : Request :=
    { kind := .write, addr := addr, width := w, data := v.setWidth 64, ok := s.admits .write addr w }
  if stop = some s.trace.length then .cut s
  else if s.admits .write addr w then
    .done { s.logRequest r with mem := s.mem.writeValue s.space addr w.bytes v }
  else .raised .accessFault addr (s.logRequest r)

/-! ### Checks (41_loadstore.md R131) -/

/-- Check (2): FMT is configured. -/
def State.needFormat (s : State) (k : Format → Micro) : Micro :=
  match s.format with
  | none => .raised .illegalCfg 0 s
  | some f => k f

/-- Check (3): the negotiated configuration fits. -/
def State.needVcfg (s : State) (f : Format) (c : BitVec 2) (storageGoverned : Bool) (m : Micro) : Micro :=
  if s.vcfgOk f c storageGoverned then m else .raised .vcfgMismatch 0 s

/-- Check (4): the base address is a multiple of `EB` (20_memory.md R64). -/
def State.needAligned (s : State) (f : Format) (a : Nat) (m : Micro) : Micro :=
  if a % f.eb ≠ 0 then .raised .misaligned a s else m

/-! ### The Vector Length Negotiator -/

/-- `grant(rem, ew, grp) = min(rem, VLMAX(ew, grp))` (40_vln.md R121). -/
def grant (p : Config.Params) (rem : Nat) (ew grp : BitVec 2) : Nat := min rem (vlmax p ew grp)

/-- `negotiate(rem, ew, grp)` (40_vln.md R122). -/
def State.negotiate (s : State) (rem : Nat) (ew grp : BitVec 2) : State :=
  { s with
    vl := BitVec.ofNat 32 (grant s.params rem ew grp)
    vsew := ew
    vgrp := grp
    vlvalid := true }

/-! ### The interleaved load/store unit -/

/-- Element `i` of an interleaved load: real part, then imaginary part, into lane `i` of the slot
(41_loadstore.md R135, 20_memory.md R70). -/
def loadElement (stop : Option Nat) (f : Format) (d : SlotName) (a i : Nat) (s : State) : Micro :=
  match s.memRead stop (s.reAddr f a i) f.storage with
  | .cut s => .cut s
  | .error s => .raised .accessFault (s.reAddr f a i) s
  | .data re s =>
    match s.memRead stop (s.imAddr f a i) f.storage with
    | .cut s => .cut s
    | .error s => .raised .accessFault (s.imAddr f a i) s
    | .data im s => .done (s.setSlot d ((s.slot d).setElement f.storage i re im))

/-- Elements `0 .. n−1` of an interleaved load, in ascending order (20_memory.md R70). -/
def loadElements (stop : Option Nat) (f : Format) (d : SlotName) (a : Nat) : Nat → State → Micro
  | 0, s => .done s
  | n + 1, s => (loadElements stop f d a n s).andThen (loadElement stop f d a n)

/-- The target lanes `0 .. VL−1` of a load that was refused hold unspecified bits (20_memory.md R66,
93_implementation_defined.md U4): free values. -/
def State.freeTarget (s : State) (f : Format) (d : SlotName) : State :=
  { s.setSlot d ((s.slot d).free s.draws (s.vl.toNat * f.eb)) with draws := s.draws + 2 }

/-- `vload(S, a)` (41_loadstore.md R135). -/
def vload (stop : Option Nat) (f : Format) (d : SlotName) (a : Nat) (s : State) : Micro :=
  s.needAligned f a
    (match loadElements stop f d a s.vl.toNat s with
     | .done s => .done s
     | .cut s => .cut s
     | .raised c info s => .raised c info (s.freeTarget f d))

/-- Element `i` of an interleaved store: real part, then imaginary part, from lane `i` of the slot
(41_loadstore.md R136, 20_memory.md R71). -/
def storeElement (stop : Option Nat) (f : Format) (d : SlotName) (a i : Nat) (s : State) : Micro :=
  (s.memWrite stop (s.reAddr f a i) f.storage (Slot.lane (s.slot d).re f.storage i)).andThen fun s =>
    s.memWrite stop (s.imAddr f a i) f.storage (Slot.lane (s.slot d).im f.storage i)

/-- Elements `0 .. n−1` of an interleaved store, in ascending order (20_memory.md R71). -/
def storeElements (stop : Option Nat) (f : Format) (d : SlotName) (a : Nat) : Nat → State → Micro
  | 0, s => .done s
  | n + 1, s => (storeElements stop f d a n s).andThen (storeElement stop f d a n)

/-- `vstore(S, a)` (41_loadstore.md R136). -/
def vstore (stop : Option Nat) (f : Format) (d : SlotName) (a : Nat) (s : State) : Micro :=
  s.needAligned f a (storeElements stop f d a s.vl.toNat s)

/-- `SCAL[r]` unspecified after a refused scalar load (20_memory.md R66, 41_loadstore.md R134): free. -/
def State.freeScal (s : State) (r : BitVec 2) : State :=
  { s.setScalRow r { re := Config.freeContainer s.draws, im := Config.freeContainer (s.draws + 1) } with
    draws := s.draws + 2 }

/-- `sload(r, a)` (41_loadstore.md R137): real part, then imaginary part, zero-extended into the
containers. -/
def sload (stop : Option Nat) (f : Format) (r : BitVec 2) (a : Nat) (s : State) : Micro :=
  s.needAligned f a
    (match s.memRead stop (s.reAddr f a 0) f.storage with
     | .cut s => .cut s
     | .error s => .raised .accessFault (s.reAddr f a 0) (s.freeScal r)
     | .data re s =>
       match s.memRead stop (s.imAddr f a 0) f.storage with
       | .cut s => .cut s
       | .error s => .raised .accessFault (s.imAddr f a 0) (s.freeScal r)
       | .data im s => .done (s.setScalRow r { re := re.setWidth 64, im := im.setWidth 64 }))

/-! ### The complex multiply-accumulate engine -/

/-- Elements `0 .. n−1` of a lane pair replaced at width `w`, element `i` by `g i` of what it held; every
other bit keeps its value (10_state.md R28, 42_cmac.md R158). -/
def updateElements (w : Width) (g : Nat → BitVec w.bits → BitVec w.bits → BitVec w.bits × BitVec w.bits) :
    Nat → LanePair → LanePair
  | 0, x => x
  | n + 1, x =>
    let y := updateElements w g n x
    let z := g n (Slot.lane y.re w n) (Slot.lane y.im w n)
    y.setElement w n z.1 z.2

/-- Lanes `0 .. n−1` of a pair set to `(+0, +0)` at width `w` (42_cmac.md R155). -/
def zeroLanes (w : Width) (n : Nat) (x : LanePair) : LanePair :=
  updateElements w (fun _ _ _ => (0, 0)) n x

/-- Row `r` cleared if its mask bit is set. -/
def State.zeroRow (s : State) (w : Width) (mask : BitVec 4) (r : BitVec 2) : State :=
  if mask.getLsbD r.toNat then s.setAccRow r (zeroLanes w s.vl.toNat (s.accRow r)) else s

/-- `czero(mask)` (42_cmac.md R155). -/
def State.czero (s : State) (w : Width) (mask : BitVec 4) : State :=
  (((s.zeroRow w mask 0).zeroRow w mask 1).zeroRow w mask 2).zeroRow w mask 3

/-- `cv(x)`: promoted when widened, as it is otherwise (42_cmac.md R154, R156). -/
def toAcc (f : Format) (x : BitVec f.storage.bits) : BitVec f.acc.bits :=
  if f.widen then promote f.storage f.acc x else x.setWidth f.acc.bits

/-- One lane of the engine: the new real and imaginary parts (42_cmac.md R151). -/
def cmacLane (w : Width) (sre sim vre vim are aim : BitVec w.bits) : BitVec w.bits × BitVec w.bits :=
  (fnma w sim vim (fma w sre vre are), fma w sim vre (fma w sre vim aim))

/-- Lanes `0 .. n−1` of an accumulator, given the coefficient at accumulator width (42_cmac.md R156). -/
def cmacLanes (f : Format) (sre sim : BitVec f.acc.bits) (b : LanePair) (n : Nat) (x : LanePair) : LanePair :=
  updateElements f.acc
    (fun i are aim => cmacLane f.acc sre sim
      (toAcc f (Slot.lane b.re f.storage i)) (toAcc f (Slot.lane b.im f.storage i)) are aim) n x

/-- `cmac(r, s)` (42_cmac.md R156). -/
def State.cmac (s : State) (f : Format) (r : BitVec 2) (b : BitVec 1) : State :=
  s.setAccRow r
    (cmacLanes f (toAcc f ((s.scalRow r).re.setWidth f.storage.bits))
      (toAcc f ((s.scalRow r).im.setWidth f.storage.bits)) (s.slot (.bbuf b)) s.vl.toNat (s.accRow r))

/-! ### The tile write-back unit -/

/-- The accumulator part that is added: narrowed once when widened (44_writeback.md R200, R203). -/
def toStorage (f : Format) (x : BitVec f.acc.bits) : BitVec f.storage.bits :=
  if f.widen then narrow f.acc f.storage x else x.setWidth f.storage.bits

/-- Lanes `0 .. n−1` of the write-back scratch: old value plus accumulator, the real and the imaginary parts
independently (44_writeback.md R200). -/
def addLanes (f : Format) (acc : LanePair) (n : Nat) (x : LanePair) : LanePair :=
  updateElements f.storage
    (fun i re im => (fadd f.storage re (toStorage f (Slot.lane acc.re f.acc i)),
      fadd f.storage im (toStorage f (Slot.lane acc.im f.acc i)))) n x

/-- `writeback(r, d)` (44_writeback.md R200). -/
def writeback (stop : Option Nat) (f : Format) (r : BitVec 2) (d : Nat) (s : State) : Micro :=
  (vload stop f .wbs d s).andThen fun s =>
    vstore stop f .wbs d { s with wbs := addLanes f (s.accRow r) s.vl.toNat s.wbs }

end Sys2Proof.Machine
end

