-- ==== Sys2Proof/Machine/Cmac.lean ====
section
/-! DEFINITION. The Fused Complex Multiply-Accumulate Engine's commands CZERO and CMAC
(spec/42_cmac.md R152, R153). -/

namespace Sys2Proof.Machine

/-- CZERO: checks with governing code SEWa, not storage-governed, then `czero` (42_cmac.md R152). -/
def runCzero (mask : BitVec 4) (s : State) : Micro :=
  s.needFormat fun f => s.needVcfg f f.acc.code false (.done (s.czero f.acc mask))

/-- CMAC: checks with governing code SEW, storage-governed, then `cmac` (42_cmac.md R153). -/
def runCmac (row : BitVec 2) (buf : BitVec 1) (s : State) : Micro :=
  s.needFormat fun f => s.needVcfg f f.storage.code true (.done (s.cmac f row buf))

/-- CZERO, run to its end (42_cmac.md R152). -/
def execCzero (mask : BitVec 4) (s : State) : Host.Outcome State Fault Refusal :=
  .next (s.unlessFaulted fun s => (runCzero mask s).finish)

/-- CMAC, run to its end (42_cmac.md R153). -/
def execCmac (row : BitVec 2) (buf : BitVec 1) (s : State) : Host.Outcome State Fault Refusal :=
  .next (s.unlessFaulted fun s => (runCmac row buf s).finish)

end Sys2Proof.Machine
end

