-- ==== Sys2Proof/Machine/Control.lean ====
section
/-! DEFINITION. The control registers (spec/10_state.md R30 to R40) and the control commands NOP, SRESET, CSRW,
CSRR (spec/45_dispatch_control.md R212 to R215). -/

namespace Sys2Proof.Machine

/-- The control registers of 10_state.md R31. -/
inductive Csr where
  | fmt | vl | vcfg | status | cause | fcmd | faddr | impl
  | cbase | abase | bbase | dimM | dimN | dimP
  | mStart | mEnd | pStart | pEnd | pCur | mCur | nCur
deriving DecidableEq, Repr

/-- The register of a number; numbers not in the table are unimplemented (10_state.md R31). -/
def csrOfNumber (n : BitVec 12) : Option Csr :=
  match n.toNat with
  | 0x000 => some .fmt
  | 0x001 => some .vl
  | 0x002 => some .vcfg
  | 0x003 => some .status
  | 0x004 => some .cause
  | 0x005 => some .fcmd
  | 0x006 => some .faddr
  | 0x007 => some .impl
  | 0x010 => some .cbase
  | 0x011 => some .abase
  | 0x012 => some .bbase
  | 0x013 => some .dimM
  | 0x014 => some .dimN
  | 0x015 => some .dimP
  | 0x016 => some .mStart
  | 0x017 => some .mEnd
  | 0x018 => some .pStart
  | 0x019 => some .pEnd
  | 0x01A => some .pCur
  | 0x01B => some .mCur
  | 0x01C => some .nCur
  | _ => none

/-- A register's value, zero-extended to 64 bits (10_state.md R31). -/
def State.csrValue (s : State) : Csr → DWord
  | .fmt => s.fmt.setWidth 64
  | .vl => s.vl.setWidth 64
  | .vcfg => s.vcfgWord.setWidth 64
  | .status => s.statusWord.setWidth 64
  | .cause => s.causeWord.setWidth 64
  | .fcmd => s.fcmd.setWidth 64
  | .faddr => s.faddr
  | .impl => s.implWord
  | .cbase => s.cbase
  | .abase => s.abase
  | .bbase => s.bbase
  | .dimM => s.dimM.setWidth 64
  | .dimN => s.dimN.setWidth 64
  | .dimP => s.dimP.setWidth 64
  | .mStart => s.mStart.setWidth 64
  | .mEnd => s.mEnd.setWidth 64
  | .pStart => s.pStart.setWidth 64
  | .pEnd => s.pEnd.setWidth 64
  | .pCur => s.pCur.setWidth 64
  | .mCur => s.mCur.setWidth 64
  | .nCur => s.nCur.setWidth 64

/-- CSRW's effect on a register: the legality check of FMT, truncation to the register's width, and
`IllegalCsr` for a read-only one (45_dispatch_control.md R214, 10_state.md R30, R31). -/
def State.csrWrite (s : State) (r : Csr) : Micro :=
  match r with
  | .fmt =>
    if legalFmt s.wordOperand then .done { s with fmt := s.wordOperand }
    else .raised .illegalCfg 0 s
  | .cbase => .done { s with cbase := s.truncAddr s.port.opA }
  | .abase => .done { s with abase := s.truncAddr s.port.opA }
  | .bbase => .done { s with bbase := s.truncAddr s.port.opA }
  | .dimM => .done { s with dimM := s.wordOperand }
  | .dimN => .done { s with dimN := s.wordOperand }
  | .dimP => .done { s with dimP := s.wordOperand }
  | .mStart => .done { s with mStart := s.wordOperand }
  | .mEnd => .done { s with mEnd := s.wordOperand }
  | .pStart => .done { s with pStart := s.wordOperand }
  | .pEnd => .done { s with pEnd := s.wordOperand }
  | .vl => .raised .illegalCsr 0 s
  | .vcfg => .raised .illegalCsr 0 s
  | .status => .raised .illegalCsr 0 s
  | .cause => .raised .illegalCsr 0 s
  | .fcmd => .raised .illegalCsr 0 s
  | .faddr => .raised .illegalCsr 0 s
  | .impl => .raised .illegalCsr 0 s
  | .pCur => .raised .illegalCsr 0 s
  | .mCur => .raised .illegalCsr 0 s
  | .nCur => .raised .illegalCsr 0 s

/-- NOP (45_dispatch_control.md R212). -/
def execNop (s : State) : Host.Outcome State Fault Refusal :=
  .next (s.unlessFaulted fun s => s.respond 0)

/-- SRESET, also in the fault state (45_dispatch_control.md R213). -/
def execSreset (s : State) : Host.Outcome State Fault Refusal :=
  .next (s.softReset.respond 0)

/-- CSRW (45_dispatch_control.md R214). -/
def execCsrw (csr : BitVec 12) (s : State) : Host.Outcome State Fault Refusal :=
  .next (s.unlessFaulted fun s =>
    match csrOfNumber csr with
    | none => s.raiseFault .illegalCsr 0
    | some r => (s.csrWrite r).finish)

/-- CSRR, also in the fault state; there a CSRR that would itself fault changes nothing
(45_dispatch_control.md R215, 60_exceptions.md R267). -/
def execCsrr (csr : BitVec 12) (s : State) : Host.Outcome State Fault Refusal :=
  .next
    (match csrOfNumber csr with
     | none => s.raiseFault .illegalCsr 0
     | some r => s.respond (s.csrValue r))

end Sys2Proof.Machine
end

