-- ==== Sys2Proof/Machine/LoadStore.lean ====
section
/-! DEFINITION. The Interleaved Complex Load/Store Unit's commands CLD, CST, SLD
(spec/41_loadstore.md R131 to R134). -/

namespace Sys2Proof.Machine

/-- CLD: checks with governing code SEW, not storage-governed, then `vload` (41_loadstore.md R132). VSEL = 3
spells no command and raises `IllegalCmd` (log 17). -/
def runCld (stop : Option Nat) (vsel : BitVec 2) (s : State) : Micro :=
  match slotOfVsel vsel with
  | none => .raised .illegalCmd 0 s
  | some d => s.needFormat fun f => s.needVcfg f f.storage.code false (vload stop f d s.addrOperand s)

/-- CST: checks with governing code SEW, not storage-governed, then `vstore` (41_loadstore.md R133). VSEL = 3
spells no command and raises `IllegalCmd` (log 17). -/
def runCst (stop : Option Nat) (vsel : BitVec 2) (s : State) : Micro :=
  match slotOfVsel vsel with
  | none => .raised .illegalCmd 0 s
  | some d => s.needFormat fun f => s.needVcfg f f.storage.code false (vstore stop f d s.addrOperand s)

/-- SLD: the FMT check, then `sload`; no configuration check (41_loadstore.md R134). -/
def runSld (stop : Option Nat) (row : BitVec 2) (s : State) : Micro :=
  s.needFormat fun f => sload stop f row s.addrOperand s

/-- CLD, run to its end (41_loadstore.md R132). -/
def execCld (vsel : BitVec 2) (s : State) : Host.Outcome State Fault Refusal :=
  .next (s.unlessFaulted fun s => (runCld none vsel s).finish)

/-- CST, run to its end (41_loadstore.md R133). -/
def execCst (vsel : BitVec 2) (s : State) : Host.Outcome State Fault Refusal :=
  .next (s.unlessFaulted fun s => (runCst none vsel s).finish)

/-- SLD, run to its end (41_loadstore.md R134). -/
def execSld (row : BitVec 2) (s : State) : Host.Outcome State Fault Refusal :=
  .next (s.unlessFaulted fun s => (runSld none row s).finish)

end Sys2Proof.Machine
end

