-- ==== Sys2Proof/Machine/Scheduler.lean ====
section
/-! DEFINITION. The Pipelined Contraction Scheduler: the micro-operation list of spec/43_scheduler.md R176, the
loop nest of R174, and the job commands MM2, MM4 (R181, R182) and MM (spec/45_dispatch_control.md R210). The
micro-operations of a job make no configuration check (spec/40_vln.md R124). A job runs these rules unchanged
whatever the registers hold (spec/93_implementation_defined.md U1, log 6). -/

namespace Sys2Proof.Machine

/-- A micro-operation applied to rows `0 .. n−1` in ascending order. -/
def forRows (op : BitVec 2 → State → Micro) : Nat → State → Micro
  | 0, s => .done s
  | n + 1, s => (forRows op n s).andThen (op (BitVec.ofNat 2 n))

/-- `P_END − p` for the current tile (43_scheduler.md R176). -/
def State.tileRemaining (s : State) : Nat := s.pEnd.toNat - s.pCur.toNat

/-- Init, lines I1 to I5 (43_scheduler.md R176, R177). -/
def jobInit (stop : Option Nat) (f : Format) (rows : Nat) (s : State) : Micro :=
  let rem := s.tileRemaining
  let s := if f.widen then s.negotiate rem (f.storage.code + 1) (f.grp + 1)
           else s.negotiate rem f.storage.code f.grp
  let s := s.czero f.acc (BitVec.ofNat 4 (2 ^ rows - 1))
  let s := if f.widen then s.negotiate rem f.storage.code f.grp else s
  let s := { s with cur := 0, nCur := 0 }
  vload stop f (.bbuf 0) (s.addrB f 0 s.pCur.toNat) s

/-- Line H1 for row `r`: the coefficient `A[m + r][n]` (43_scheduler.md R178). -/
def jobCoefficient (stop : Option Nat) (f : Format) (r : BitVec 2) (s : State) : Micro :=
  sload stop f r (s.addrA f (s.mCur.toNat + r.toNat) s.nCur.toNat) s

/-- Line H2: the prefetch of row `n + 1` of B into the other buffer, if there is one; the comparison does
not wrap (43_scheduler.md R178, 45_dispatch_control.md R216). -/
def jobPrefetch (stop : Option Nat) (f : Format) (s : State) : Micro :=
  if s.nCur.toNat + 1 < s.dimN.toNat then
    vload stop f (.bbuf (1 - s.cur)) (s.addrB f (s.nCur.toNat + 1) s.pCur.toNat) s
  else .done s

/-- Line H3 for row `r`: the CMAC engine against the currently held tile (43_scheduler.md R178). -/
def jobCmac (f : Format) (r : BitVec 2) (s : State) : Micro := .done (s.cmac f r s.cur)

/-- Line H4 (43_scheduler.md R176). -/
def State.advanceIndex (s : State) : State := { s with nCur := s.nCur + 1, cur := 1 - s.cur }

/-- One half-iteration, lines H1 to H4 (43_scheduler.md R176, R178). -/
def jobHalf (stop : Option Nat) (f : Format) (rows : Nat) (s : State) : Micro :=
  (((forRows (jobCoefficient stop f) rows s).andThen (jobPrefetch stop f)).andThen
    (forRows (jobCmac f) rows)).andThen fun s => .done s.advanceIndex

/-- The steady state: half-iterations until the exit test H5, `N_CUR = N`, holds (43_scheduler.md R176,
R179). The first argument bounds the number of half-iterations; `halfIterations` never runs out. -/
def jobSteady (stop : Option Nat) (f : Format) (rows : Nat) : Nat → State → Micro
  | 0, s => .done s
  | n + 1, s =>
    (jobHalf stop f rows s).andThen fun s => if s.nCur = s.dimN then .done s else jobSteady stop f rows n s

/-- How often the 32-bit cursor, from 0, is incremented before it equals `DIM_N`: `N` times, and for
`DIM_N = 0` after it has wrapped (93_implementation_defined.md U5). -/
def State.halfIterations (s : State) : Nat := if s.dimN = 0 then 2 ^ 32 else s.dimN.toNat

/-- Line W1 for row `r` (43_scheduler.md R176, R180). -/
def jobWriteback (stop : Option Nat) (f : Format) (r : BitVec 2) (s : State) : Micro :=
  writeback stop f r (s.addrC f (s.mCur.toNat + r.toNat) s.pCur.toNat) s

/-- The micro-operation list of one (column tile, row block): Init, steady state, drain, write-back
(43_scheduler.md R176 to R180). -/
def jobBlock (stop : Option Nat) (f : Format) (rows : Nat) (s : State) : Micro :=
  ((jobInit stop f rows s).andThen fun s => jobSteady stop f rows s.halfIterations s).andThen
    (forRows (jobWriteback stop f) rows)

/-- `ROWS = min(RB, M_END − M_CUR)` (43_scheduler.md R175). -/
def State.blockRows (s : State) (rb : Nat) : Nat := min rb (s.mEnd.toNat - s.mCur.toNat)

/-- The row-block loop, at most `n` blocks (43_scheduler.md R174). -/
def jobBlocks (stop : Option Nat) (f : Format) (rb : Nat) : Nat → State → Micro
  | 0, s => .done s
  | n + 1, s =>
    let rows := s.blockRows rb
    (jobBlock stop f rows s).andThen fun s =>
      let s := { s with mCur := s.mCur + BitVec.ofNat 32 rows }
      if s.mEnd.toNat ≤ s.mCur.toNat then .done s else jobBlocks stop f rb n s

/-- The column-tile loop, at most `n` tiles (43_scheduler.md R174). -/
def jobTiles (stop : Option Nat) (f : Format) (rb : Nat) : Nat → State → Micro
  | 0, s => .done s
  | n + 1, s =>
    let s := { s with mCur := s.mStart }
    (jobBlocks stop f rb (s.mEnd.toNat - s.mStart.toNat) s).andThen fun s =>
      let s := { s with pCur := s.pCur + s.vl }
      if s.pEnd.toNat ≤ s.pCur.toNat then .done s else jobTiles stop f rb n s

/-- Job start from step (3) of 43_scheduler.md R173: the factor flag, the empty case, the loop nest. -/
def jobRun (stop : Option Nat) (f : Format) (rb : Nat) (s : State) : Micro :=
  let s := { s with rbf := rb == 4 }
  if s.mEnd.toNat ≤ s.mStart.toNat ∨ s.pEnd.toNat ≤ s.pStart.toNat then .done s
  else jobTiles stop f rb (s.pEnd.toNat - s.pStart.toNat) { s with pCur := s.pStart }

/-- MM: the ranges of the whole product (45_dispatch_control.md R210). -/
def State.fullRanges (s : State) : State :=
  { s with mStart := 0, mEnd := s.dimM, pStart := 0, pEnd := s.dimP }

/-- The factor MM picks: 2 for `DIM_M ≤ 4`, else 4 (45_dispatch_control.md R211). -/
def State.dispatchFactor (s : State) : Nat := if s.dimM.toNat ≤ 4 then 2 else 4

/-- MM2 (43_scheduler.md R181). -/
def runMm2 (stop : Option Nat) (s : State) : Micro := s.needFormat fun f => jobRun stop f 2 s

/-- MM4 (43_scheduler.md R182). -/
def runMm4 (stop : Option Nat) (s : State) : Micro := s.needFormat fun f => jobRun stop f 4 s

/-- MM (45_dispatch_control.md R210). -/
def runMm (stop : Option Nat) (s : State) : Micro :=
  s.needFormat fun f => jobRun stop f s.dispatchFactor s.fullRanges

/-- MM2, run to its end (43_scheduler.md R181). -/
def execMm2 (s : State) : Host.Outcome State Fault Refusal :=
  .next (s.unlessFaulted fun s => (runMm2 none s).finish)

/-- MM4, run to its end (43_scheduler.md R182). -/
def execMm4 (s : State) : Host.Outcome State Fault Refusal :=
  .next (s.unlessFaulted fun s => (runMm4 none s).finish)

/-- MM, run to its end (45_dispatch_control.md R210). -/
def execMm (s : State) : Host.Outcome State Fault Refusal :=
  .next (s.unlessFaulted fun s => (runMm none s).finish)

end Sys2Proof.Machine
end

