-- ==== Sys2Proof/Machine/Vln.lean ====
section
/-! DEFINITION. The Vector Length Negotiator's command, VLREQ (spec/40_vln.md R123). -/

namespace Sys2Proof.Machine

/-- VLREQ: negotiate with `op_a` as the remaining length and answer the granted length. It reads no FMT.
EW = 0 spells no command (30_encoding.md R95); the term raises `IllegalCmd`, as R123's first line says
(log 17). -/
def execVlreq (ew grp : BitVec 2) (s : State) : Host.Outcome State Fault Refusal :=
  .next (s.unlessFaulted fun s =>
    if ew = 0 then s.raiseFault .illegalCmd 0
    else
      let t := s.negotiate s.port.opA.toNat ew grp
      t.respond (t.vl.setWidth 64))

end Sys2Proof.Machine
end

