-- ==== Sys2Proof/Machine/WriteBack.lean ====
section
/-! DEFINITION. The Tile Write-Back Unit's command WB (spec/44_writeback.md R201). -/

namespace Sys2Proof.Machine

/-- WB: checks with governing code SEW, storage-governed, then `writeback` (44_writeback.md R201). -/
def runWb (stop : Option Nat) (row : BitVec 2) (s : State) : Micro :=
  s.needFormat fun f => s.needVcfg f f.storage.code true (writeback stop f row s.addrOperand s)

/-- WB, run to its end (44_writeback.md R201). -/
def execWb (row : BitVec 2) (s : State) : Host.Outcome State Fault Refusal :=
  .next (s.unlessFaulted fun s => (runWb none row s).finish)

end Sys2Proof.Machine
end

