-- ==== Sys2Proof/Machine/Dispatch.lean ====
section
/-! DEFINITION. The meaning of each command, one arm per constructor of `Instr` (spec/30_encoding.md R94). -/

namespace Sys2Proof.Machine

def exec (i : Instr) (s : State) : Host.Outcome State Fault Refusal :=
  match i with
  | .nop => Sys2Proof.Machine.execNop s
  | .sreset => Sys2Proof.Machine.execSreset s
  | .csrw csr => Sys2Proof.Machine.execCsrw csr s
  | .csrr csr => Sys2Proof.Machine.execCsrr csr s
  | .vlreq ew grp => Sys2Proof.Machine.execVlreq ew grp s
  | .cld vsel => Sys2Proof.Machine.execCld vsel s
  | .cst vsel => Sys2Proof.Machine.execCst vsel s
  | .sld row => Sys2Proof.Machine.execSld row s
  | .czero mask => Sys2Proof.Machine.execCzero mask s
  | .cmac row buf => Sys2Proof.Machine.execCmac row buf s
  | .wb row => Sys2Proof.Machine.execWb row s
  | .mm2 => Sys2Proof.Machine.execMm2 s
  | .mm4 => Sys2Proof.Machine.execMm4 s
  | .mm => Sys2Proof.Machine.execMm s

end Sys2Proof.Machine
end

