-- ==== Sys2Proof/Machine/HostSide.lean ====
section
/-! DEFINITION. What the engine does with the next input of the host side: accepting a command
(spec/00_scope.md R6, spec/30_encoding.md R95), a write of an external agent, hardware reset
(spec/70_reset_and_hazards.md R290). -/

namespace Sys2Proof.Machine

/-- A command is accepted: its record stands on the command interface, its word is decoded and executed;
an illegal word raises `IllegalCmd` and changes no other state (30_encoding.md R95). -/
def State.accept (s : State) (c : Command) : Host.Outcome State Fault Refusal :=
  let s := { s with port := c }
  match decode c.cmd with
  | .error _ => .next (s.raiseFault .illegalCmd 0)
  | .ok i => exec i s

/-- A command's rules run until right before the request that would be number `n` of the trace, or to the end.
The commands that neither touch a lane or a coefficient nor make a request have nothing to run here: what they
write, the reset that follows resets. -/
def runUntil (i : Instr) (n : Nat) (s : State) : Micro :=
  match i with
  | .nop => .done s
  | .sreset => .done s
  | .csrw _ => .done s
  | .csrr _ => .done s
  | .vlreq _ _ => .done s
  | .cld vsel => runCld (some n) vsel s
  | .cst vsel => runCst (some n) vsel s
  | .sld row => runSld (some n) row s
  | .czero mask => runCzero mask s
  | .cmac row buf => runCmac row buf s
  | .wb row => runWb (some n) row s
  | .mm2 => runMm2 (some n) s
  | .mm4 => runMm4 (some n) s
  | .mm => runMm (some n) s

/-- The state right before request number `k` (from 0) of the command on the interface, or where it ends if it
makes no more than `k`; an illegal word and a command refused in the fault state do nothing. -/
def State.progress (s : State) (k : Nat) : State :=
  match decode s.port.cmd with
  | .error _ => s
  | .ok i => if s.fault then s else (runUntil i (s.trace.length + k) s).state

/-- Hardware reset in the middle of the command `c` (70_reset_and_hazards.md R290, R291,
93_implementation_defined.md U9): its first `requests` memory requests stay made and no other is, there is no
response, and the engine is in the reset state. After a warm reset the slots and `SCAL` hold what they held:
nothing done yet with `work = 0`, else what they hold right before request number `work − 1`, or before the
first request not made, whichever is earlier (log 8). After a power-on they are free. -/
def State.resetWithin (s : State) (k : ResetKind) (c : Command) (requests work : Nat) : State :=
  let s := { s with port := c }
  let made := s.progress requests
  let held := if work = 0 then s else s.progress (min (work - 1) requests)
  State.hardReset
    { made with
      acc := held.acc
      bbuf := held.bbuf
      wbs := held.wbs
      scal := held.scal } k

/-- One step: the next input is consumed; with none the engine is idle and keeps all its state
(60_exceptions.md R272). -/
def State.takeInput (s : State) : Host.Outcome State Fault Refusal :=
  match s.inputs with
  | [] => .next s
  | .command c :: rest => ({ s with inputs := rest }).accept c
  | .external a b :: rest => .next { s with inputs := rest, mem := s.mem.write (a % s.space) b }
  | .reset k :: rest => .next (({ s with inputs := rest }).hardReset k)
  | .resetDuring k c requests work :: rest =>
    .next (({ s with inputs := rest }).resetWithin k c requests work)

/-- The command record whose low bits are the number `w` (the rest zero), put where the step takes its next
input. -/
def State.present (s : State) (nbits w : Nat) : State :=
  let r := recordWords nbits w
  { s with inputs := .command { cmd := r.1, opA := r.2.1, opB := r.2.2 } :: s.inputs }

end Sys2Proof.Machine
end

