-- ==== Sys2Proof/Machine/Step.lean ====
section
/-! DEFINITION. The step of the machine, and the placing of one command where the next step takes it. -/

namespace Sys2Proof.Machine

/-- One step of the engine: the next input of the host side, run whole (spec/00_scope.md R5). -/
def step (s : State) : Host.Outcome State Fault Refusal := s.takeInput

/-- The state in which the host's next command is the record whose low `nbits` bits are `w` (log 5). -/
def State.withFetchWord (s : State) (nbits w : Nat) : State := s.present nbits w

end Sys2Proof.Machine
end

