-- ==== Sys2Proof/Safety.lean ====
section
/-! DEFINITION. The invariant of SPATZ CORE, and the terms in which a run of it is judged. -/

namespace Sys2Proof.Machine

/-- A lane pair of an engine with parameters `p` has `SLOTBITS` bits in each part (spec/10_state.md R22). -/
def LanePair.sized (p : Config.Params) (x : LanePair) : Prop :=
  x.re.length = p.vlen ∧ x.im.length = p.vlen

/-- What holds of the engine at reset and after every step, whatever the host does. -/
structure State.Inv (s : State) : Prop where
  /-- The memory is in its canonical form. -/
  memWf : s.mem.wf = true
  /-- The memory holds nothing outside the space of `2^AW` bytes (20_memory.md R60). -/
  memInSpace : ∀ c ∈ s.mem, c.1 < s.space
  /-- Every slot has `SLOTBITS` bits (10_state.md R22). -/
  accSized : ∀ r : BitVec 2, (s.accRow r).sized s.params
  slotSized : ∀ n : SlotName, (s.slot n).sized s.params
  /-- FMT is unconfigured or legal (10_state.md R30, 41_loadstore.md R131). -/
  fmtLegal : s.fmt = 0 ∨ legalFmt s.fmt = true
  /-- The address registers hold `AW` bits (10_state.md R31, R35). -/
  cbaseInSpace : s.cbase.toNat < s.space
  abaseInSpace : s.abase.toNat < s.space
  bbaseInSpace : s.bbase.toNat < s.space
  faddrInSpace : s.faddr.toNat < s.space
  /-- Before the first negotiation the configuration is that of reset (10_state.md R29, R44). -/
  unnegotiated : s.vlvalid = false → s.vl = 0 ∧ s.vsew = 0 ∧ s.vgrp = 0
  /-- After it, a width was named and the granted length fits (40_vln.md R121, R122). -/
  negotiated : s.vlvalid = true → s.vsew ≠ 0 ∧ s.vl.toNat ≤ vlmax s.params s.vsew s.vgrp
  /-- FAULT says whether a cause is recorded (10_state.md R35, 60_exceptions.md R262). -/
  faultCause : s.fault = false ↔ s.cause = .none
  /-- With no fault recorded there is no evidence; only causes 5 and 6 record an address (R262, R265). -/
  faultEvidence : s.fault = false → s.fcmd = 0
  faultAddress : s.cause ≠ .misaligned → s.cause ≠ .accessFault → s.faddr = 0

/-- The engine has no fault recorded and runs commands (60_exceptions.md R267). -/
def State.running (s : State) : Prop := s.fault = false

/-- Every request of a kind of a vector access of `n` elements at `a` is admitted (20_memory.md R66). -/
def State.admitsElements (s : State) (kind : RequestKind) (f : Format) (a n : Nat) : Prop :=
  ∀ i < n, s.admits kind (s.reAddr f a i) f.storage = true ∧ s.admits kind (s.imAddr f a i) f.storage = true

/-- The value of the real part of element `i` at `a`. -/
def State.reValue (s : State) (f : Format) (a i : Nat) : BitVec f.storage.bits :=
  s.loadValue (s.reAddr f a i) f.storage

/-- The value of the imaginary part of element `i` at `a`. -/
def State.imValue (s : State) (f : Format) (a i : Nat) : BitVec f.storage.bits :=
  s.loadValue (s.imAddr f a i) f.storage

/-- The admitted read of an address, as it stands on the memory interface. -/
def State.readRequest (s : State) (addr : Nat) (w : Width) : Request :=
  { kind := .read, addr := addr, width := w, data := (s.loadValue addr w).setWidth 64, ok := true }

/-- The read of an address that the memory answers with an error. -/
def refusedRead (addr : Nat) (w : Width) : Request :=
  { kind := .read, addr := addr, width := w, data := 0, ok := false }

/-- The admitted write of a value at an address. -/
def writeRequest (addr : Nat) (w : Width) (v : BitVec w.bits) : Request :=
  { kind := .write, addr := addr, width := w, data := v.setWidth 64, ok := true }

/-- The requests of an interleaved load of `n` elements from base `a`, in the order of 20_memory.md R70. -/
def State.loadRequests (s : State) (f : Format) (a : Nat) : Nat → List Request
  | 0 => []
  | n + 1 => s.loadRequests f a n ++
      [s.readRequest (s.reAddr f a n) f.storage, s.readRequest (s.imAddr f a n) f.storage]

/-- The requests of an interleaved store of `n` elements of a lane pair to base `a`, in the order of
20_memory.md R71. -/
def State.storeRequests (s : State) (f : Format) (x : LanePair) (a : Nat) : Nat → List Request
  | 0 => []
  | n + 1 => s.storeRequests f x a n ++
      [writeRequest (s.reAddr f a n) f.storage (Slot.lane x.re f.storage n),
       writeRequest (s.imAddr f a n) f.storage (Slot.lane x.im f.storage n)]

/-- Address `x` is one of the bytes of a vector access of `n` elements at `a`. -/
def State.inElements (s : State) (f : Format) (a n x : Nat) : Prop :=
  ∃ k < 2 * n * f.eb, x = (a + k) % s.space

/-! ### Decoding (30_encoding.md) -/

/-- The 14 OPC values of 30_encoding.md R94. -/
def assignedOpcodes : List (BitVec 8) :=
  [0x00, 0x01, 0x08, 0x09, 0x10, 0x20, 0x21, 0x22, 0x30, 0x31, 0x38, 0x40, 0x41, 0x42]

/-- The bits that the format of an assigned OPC value requires to be zero (30_encoding.md R92, R94). -/
def requiredZero (opc : BitVec 8) : Word :=
  if opc = 0x08 ∨ opc = 0x09 then 0x000FFF00
  else if opc = 0x10 then 0xFFF0FF00
  else if opc = 0x20 ∨ opc = 0x21 then 0xFFFFF300
  else if opc = 0x22 ∨ opc = 0x38 then 0xFFFFFC00
  else if opc = 0x30 then 0xFFFF0F00
  else if opc = 0x31 then 0xFFFFF800
  else 0xFFFFFF00

/-- A word is illegal on one of the three grounds of 30_encoding.md R95. -/
def illegalWord (w : Word) : Prop :=
  fieldOpc w ∉ assignedOpcodes ∨
  w &&& requiredZero (fieldOpc w) ≠ 0 ∨
  (fieldOpc w = 0x10 ∧ fieldEw w = 0) ∨
  ((fieldOpc w = 0x20 ∨ fieldOpc w = 0x21) ∧ fieldVsel w = 3)

/-! ### Registers and faults -/

/-- The state in which a command ends that raises a fault while none is recorded (60_exceptions.md R265). -/
def State.faulted (s : State) (c : Cause) (addr : Nat) : State :=
  { s with
    fault := true
    cause := c
    fcmd := s.port.cmd
    faddr := BitVec.ofNat 64 addr
    responses := { data := 0, fault := true } :: s.responses }

/-- The state in which a command ends that completes with `data = d` (30_encoding.md R100). -/
def State.answered (s : State) (d : DWord) : State :=
  { s with responses := { data := d, fault := false } :: s.responses }

/-- The state in which a command ends that is refused (60_exceptions.md R267). -/
def State.turnedAway (s : State) : State :=
  { s with responses := { data := 0, fault := true } :: s.responses }

/-- The registers of 10_state.md R31 by number, with what a read of each returns. -/
def State.csrTable (s : State) : List (BitVec 12 × DWord) :=
  [(0x000, s.fmt.setWidth 64), (0x001, s.vl.setWidth 64), (0x002, s.vcfgWord.setWidth 64),
   (0x003, s.statusWord.setWidth 64), (0x004, s.causeWord.setWidth 64), (0x005, s.fcmd.setWidth 64),
   (0x006, s.faddr), (0x007, s.implWord), (0x010, s.cbase), (0x011, s.abase), (0x012, s.bbase),
   (0x013, s.dimM.setWidth 64), (0x014, s.dimN.setWidth 64), (0x015, s.dimP.setWidth 64),
   (0x016, s.mStart.setWidth 64), (0x017, s.mEnd.setWidth 64), (0x018, s.pStart.setWidth 64),
   (0x019, s.pEnd.setWidth 64), (0x01A, s.pCur.setWidth 64), (0x01B, s.mCur.setWidth 64),
   (0x01C, s.nCur.setWidth 64)]

/-- The registers of 10_state.md R31 marked RW. -/
def writableCsrs : List (BitVec 12) :=
  [0x000, 0x010, 0x011, 0x012, 0x013, 0x014, 0x015, 0x016, 0x017, 0x018, 0x019]

/-- Every register of 10_state.md R31, and the flags, at its reset value (R44). -/
def State.controlReset (t : State) : Prop :=
  t.vl = 0 ∧ t.vsew = 0 ∧ t.vgrp = 0 ∧ t.vlvalid = false ∧ t.cur = 0 ∧ t.rbf = false ∧
  t.fault = false ∧ t.cause = .none ∧ t.fcmd = 0 ∧ t.faddr = 0 ∧
  t.fmt = 0 ∧ t.cbase = 0 ∧ t.abase = 0 ∧ t.bbase = 0 ∧ t.dimM = 0 ∧ t.dimN = 0 ∧ t.dimP = 0 ∧
  t.mStart = 0 ∧ t.mEnd = 0 ∧ t.pStart = 0 ∧ t.pEnd = 0 ∧ t.pCur = 0 ∧ t.mCur = 0 ∧ t.nCur = 0

/-- `vcfg_ok(c, storage_governed)` of 40_vln.md R124, clause by clause. -/
def State.vcfgFits (s : State) (f : Format) (c : BitVec 2) (storageGoverned : Bool) : Prop :=
  s.vlvalid = true ∧ s.vsew = c ∧ ¬ (storageGoverned = true ∧ f.widen = true ∧ s.vgrp = 3)

/-- The governing code of a lane command and whether it is storage-governed (40_vln.md R124). -/
def laneCheck (f : Format) : Instr → Option (BitVec 2 × Bool)
  | .cld _ => some (f.storage.code, false)
  | .cst _ => some (f.storage.code, false)
  | .czero _ => some (f.acc.code, false)
  | .cmac _ _ => some (f.storage.code, true)
  | .wb _ => some (f.storage.code, true)
  | .nop => none
  | .sreset => none
  | .csrw _ => none
  | .csrr _ => none
  | .vlreq _ _ => none
  | .sld _ => none
  | .mm2 => none
  | .mm4 => none
  | .mm => none

/-- The commands that take the address of elements in `op_a` (30_encoding.md R93, 41_loadstore.md R131). -/
def addressesElements (i : Instr) : Prop :=
  (∃ v, i = .cld v) ∨ (∃ v, i = .cst v) ∨ (∃ r, i = .sld r) ∨ ∃ r, i = .wb r

/-- The six commands of 41_loadstore.md R131. -/
def usesFormat (i : Instr) : Prop :=
  addressesElements i ∨ (∃ m, i = .czero m) ∨ ∃ r b, i = .cmac r b

/-- The job commands (43_scheduler.md R181, R182, 45_dispatch_control.md R210). -/
def isJob (i : Instr) : Prop := i = .mm2 ∨ i = .mm4 ∨ i = .mm

/-! ### Lanes and stored elements -/

/-- The lane pair `y` is `x` with lanes `0 .. n−1` at width `w` replaced by the given values and every other
bit kept (10_state.md R28). -/
def LanePair.updated (x y : LanePair) (w : Width) (n : Nat) (v : Nat → BitVec w.bits × BitVec w.bits) : Prop :=
  y.re.length = x.re.length ∧ y.im.length = x.im.length ∧
  (∀ i < n, Slot.lane y.re w i = (v i).1 ∧ Slot.lane y.im w i = (v i).2) ∧
  ∀ k, n * w.bytes ≤ k → Slot.byte y.re k = Slot.byte x.re k ∧ Slot.byte y.im k = Slot.byte x.im k

/-- The lane pair `y` has the bits of `x` from byte `n` of each part on; below it holds any bits. -/
def LanePair.keepsFrom (x y : LanePair) (n : Nat) : Prop :=
  y.re.length = x.re.length ∧ y.im.length = x.im.length ∧
  ∀ k, n ≤ k → Slot.byte y.re k = Slot.byte x.re k ∧ Slot.byte y.im k = Slot.byte x.im k

/-- The memory `m` is that of `s` with the `n` elements at `a` replaced by the given parts, every other byte
kept. -/
def State.storesElements (s : State) (m : Memory) (f : Format) (a n : Nat)
    (v : Nat → BitVec f.storage.bits × BitVec f.storage.bits) : Prop :=
  (∀ i < n, ∀ k < f.eb,
    m.read ((s.reAddr f a i + k) % s.space) = leByte (v i).1 k ∧
    m.read ((s.imAddr f a i + k) % s.space) = leByte (v i).2 k) ∧
  ∀ y, ¬ s.inElements f a n y → m.read y = s.mem.read y

/-- The write of a value that the memory answers with an error. -/
def refusedWrite (addr : Nat) (w : Width) (v : BitVec w.bits) : Request :=
  { kind := .write, addr := addr, width := w, data := v.setWidth 64, ok := false }

/-- The writes among requests, oldest first, done on a memory of `size` bytes. -/
def replayWrites (size : Nat) (m : Memory) : List Request → Memory
  | [] => m
  | r :: rs =>
    replayWrites size
      (if r.kind = .write ∧ r.ok = true then m.writeBytes size r.addr r.data r.width.bytes else m) rs

/-! ### Jobs (43_scheduler.md) -/

/-- The row-block factor of a job command and the state whose ranges it works on
(43_scheduler.md R171, 45_dispatch_control.md R210, R211). -/
def jobOf (s : State) : Instr → Option (Nat × State)
  | .mm2 => some (2, s)
  | .mm4 => some (4, s)
  | .mm => some (if s.dimM.toNat ≤ 4 then 2 else 4,
      { s with mStart := 0, mEnd := s.dimM, pStart := 0, pEnd := s.dimP })
  | .nop => none
  | .sreset => none
  | .csrw _ => none
  | .csrr _ => none
  | .vlreq _ _ => none
  | .cld _ => none
  | .cst _ => none
  | .sld _ => none
  | .czero _ => none
  | .cmac _ _ => none
  | .wb _ => none

/-- Clauses (a) to (e) of a well-formed job (43_scheduler.md R172): the format, the shapes, no address that
wraps, aligned bases. DESIGN CHOICE (log 18): of the two tests of clause (d), which do not coincide, this is the
first, that no element of 20_memory.md R68 with `i < M_END`, `k < DIM_N`, `j < P_END` reaches beyond `2^AW`. The
product in parentheses, `(M_END · max(N, P)) · CB < 2^AW` above each base, is not asked for. -/
structure State.WellFormedJob (s : State) (f : Format) : Prop where
  legal : legalFmt s.fmt = true
  format : s.format = some f
  dimN : 1 ≤ s.dimN.toNat
  dimP : 1 ≤ s.dimP.toNat
  rows : s.mStart.toNat ≤ s.mEnd.toNat
  columns : s.pStart.toNat ≤ s.pEnd.toNat
  leading : s.pEnd.toNat ≤ s.dimP.toNat
  aFits : ∀ i < s.mEnd.toNat, ∀ k < s.dimN.toNat,
    s.abase.toNat + (i * s.dimN.toNat + k) * f.cb + f.cb ≤ s.space
  bFits : ∀ k < s.dimN.toNat, ∀ j < s.pEnd.toNat,
    s.bbase.toNat + (k * s.dimP.toNat + j) * f.cb + f.cb ≤ s.space
  cFits : ∀ i < s.mEnd.toNat, ∀ j < s.pEnd.toNat,
    s.cbase.toNat + (i * s.dimP.toNat + j) * f.cb + f.cb ≤ s.space
  aAligned : s.abase.toNat % f.eb = 0
  bAligned : s.bbase.toNat % f.eb = 0
  cAligned : s.cbase.toNat % f.eb = 0

/-- `(i, j)` is a row and a column of the job's part of C (10_state.md R39). -/
def State.inRanges (s : State) (i j : Nat) : Prop :=
  s.mStart.toNat ≤ i ∧ i < s.mEnd.toNat ∧ s.pStart.toNat ≤ j ∧ j < s.pEnd.toNat

/-- The memory admits every request of the job (20_memory.md R66, R80 (a)). -/
structure State.JobAdmitted (s : State) (f : Format) : Prop where
  a : ∀ i k, s.mStart.toNat ≤ i → i < s.mEnd.toNat → k < s.dimN.toNat →
    s.admitsElements .read f (s.addrA f i k) 1
  b : ∀ k j, k < s.dimN.toNat → s.pStart.toNat ≤ j → j < s.pEnd.toNat →
    s.admitsElements .read f (s.addrB f k j) 1
  c : ∀ i j, s.inRanges i j → ∀ kind, s.admitsElements kind f (s.addrC f i j) 1

/-- Address `x` is a byte of an element of C that the job writes. -/
def State.writesC (s : State) (f : Format) (x : Nat) : Prop :=
  ∃ i j, s.inRanges i j ∧ s.inElements f (s.addrC f i j) 1 x

/-- Clause (b) of the buffer contract (20_memory.md R80): no byte of C that the job writes is a byte of A or
of B that it reads. -/
structure State.JobDisjoint (s : State) (f : Format) : Prop where
  a : ∀ i k x, s.mStart.toNat ≤ i → i < s.mEnd.toNat → k < s.dimN.toNat →
    s.inElements f (s.addrA f i k) 1 x → ¬ s.writesC f x
  b : ∀ k j x, k < s.dimN.toNat → s.pStart.toNat ≤ j → j < s.pEnd.toNat →
    s.inElements f (s.addrB f k j) 1 x → ¬ s.writesC f x

/-- The complex element at an address: real part, imaginary part (20_memory.md R61). -/
def State.element (s : State) (f : Format) (a : Nat) : BitVec f.storage.bits × BitVec f.storage.bits :=
  (s.reValue f a 0, s.imValue f a 0)

/-- One lane of the engine on complex values: the four fused operations of 42_cmac.md R151 at the
accumulator width, on operands promoted when the format widens (R154). -/
def cmac1 (f : Format) (acc : BitVec f.acc.bits × BitVec f.acc.bits)
    (a b : BitVec f.storage.bits × BitVec f.storage.bits) : BitVec f.acc.bits × BitVec f.acc.bits :=
  let cv := fun (x : BitVec f.storage.bits) =>
    if f.widen then promote f.storage f.acc x else x.setWidth f.acc.bits
  (fnma f.acc (cv a.2) (cv b.2) (fma f.acc (cv a.1) (cv b.1) acc.1),
   fma f.acc (cv a.2) (cv b.1) (fma f.acc (cv a.1) (cv b.2) acc.2))

/-- One lane of the write-back on complex values: narrowed when the format widens, then added
(44_writeback.md R200). -/
def wbadd (f : Format) (c : BitVec f.storage.bits × BitVec f.storage.bits)
    (acc : BitVec f.acc.bits × BitVec f.acc.bits) : BitVec f.storage.bits × BitVec f.storage.bits :=
  let nar := fun (x : BitVec f.acc.bits) =>
    if f.widen then narrow f.acc f.storage x else x.setWidth f.storage.bits
  (fadd f.storage c.1 (nar acc.1), fadd f.storage c.2 (nar acc.2))

/-- `S_n` of 43_scheduler.md R185 for row `i` and column `j`: the products of indices `0 .. n−1`, summed in
that order from `(+0, +0)`. -/
def State.partialSum (s : State) (f : Format) (i j : Nat) : Nat → BitVec f.acc.bits × BitVec f.acc.bits
  | 0 => (0, 0)
  | n + 1 => cmac1 f (s.partialSum f i j n) (s.element f (s.addrA f i n)) (s.element f (s.addrB f n j))

/-! ### Values of a format (46_numerics.md R231) -/

/-- An infinity. -/
def FpValue.isInf : FpValue → Bool
  | .nan => false
  | .inf _ => true
  | .fin _ _ => false

/-- A finite value, zero among them. -/
def FpValue.isFinite : FpValue → Bool
  | .nan => false
  | .inf _ => false
  | .fin _ _ => true

/-- A zero of either sign. -/
def FpValue.isZero : FpValue → Bool
  | .nan => false
  | .inf _ => false
  | .fin _ n => n == 0

/-- An infinity or a finite value other than zero, of sign `neg`. -/
def FpValue.hasSign (v : FpValue) (neg : Bool) : Prop := v = .inf neg ∨ ∃ n, n ≠ 0 ∧ v = .fin neg n

/-- The lengths of the tiles of a sweep over `rem` elements by a negotiator `g`, at most `n` of them
(40_vln.md R125). -/
def sweep (g : Nat → Nat) : Nat → Nat → List Nat
  | 0, _ => []
  | n + 1, rem => if rem = 0 then [] else g rem :: sweep g n (rem - g rem)

end Sys2Proof.Machine
end

