-- ==== Sys2Proof/Certificates/Slice0/Obligations.lean ====
section
/-! DEFINITION. The statements for the provers. Each formalises a rule of spec/ or rests on sections of it;
OBLIGATIONS.json says which. -/

open Sys2Proof Sys2Proof.Machine

/-! ### Encoding (spec/30_encoding.md) -/

/-- Decoding the encoding of a well-formed command gives it back. -/
def Obligations.DecodeEncodeRoundTrip : Prop :=
  ∀ i : Instr, i.wellFormed = true → decode (encode i) = .ok i

/-- A word that decodes is the encoding of what it decodes to, and that is well-formed. -/
def Obligations.DecodedWordIsItsEncoding : Prop :=
  ∀ (w : Word) (i : Instr), decode w = .ok i → i.wellFormed = true ∧ encode i = w

/-- R94: a word spells a command iff `w & mask = match` and the extra condition holds; its operands are the
fields of R91. -/
def Obligations.WordSpellsCommand : Prop :=
  ∀ w : Word,
    (decode w = .ok .nop ↔ w &&& 0xFFFFFFFF = 0x00000000) ∧
    (decode w = .ok .sreset ↔ w &&& 0xFFFFFFFF = 0x00000001) ∧
    (∀ csr, decode w = .ok (.csrw csr) ↔ w &&& 0x000FFFFF = 0x00000008 ∧ csr = w.extractLsb' 20 12) ∧
    (∀ csr, decode w = .ok (.csrr csr) ↔ w &&& 0x000FFFFF = 0x00000009 ∧ csr = w.extractLsb' 20 12) ∧
    (∀ ew grp, decode w = .ok (.vlreq ew grp) ↔
      w &&& 0xFFF0FFFF = 0x00000010 ∧ ew = w.extractLsb' 16 2 ∧ grp = w.extractLsb' 18 2 ∧ ew ≠ 0) ∧
    (∀ vsel, decode w = .ok (.cld vsel) ↔
      w &&& 0xFFFFF3FF = 0x00000020 ∧ vsel = w.extractLsb' 10 2 ∧ vsel ≠ 3) ∧
    (∀ vsel, decode w = .ok (.cst vsel) ↔
      w &&& 0xFFFFF3FF = 0x00000021 ∧ vsel = w.extractLsb' 10 2 ∧ vsel ≠ 3) ∧
    (∀ row, decode w = .ok (.sld row) ↔ w &&& 0xFFFFFCFF = 0x00000022 ∧ row = w.extractLsb' 8 2) ∧
    (∀ mask, decode w = .ok (.czero mask) ↔ w &&& 0xFFFF0FFF = 0x00000030 ∧ mask = w.extractLsb' 12 4) ∧
    (∀ row buf, decode w = .ok (.cmac row buf) ↔
      w &&& 0xFFFFF8FF = 0x00000031 ∧ row = w.extractLsb' 8 2 ∧ buf = w.extractLsb' 10 1) ∧
    (∀ row, decode w = .ok (.wb row) ↔ w &&& 0xFFFFFCFF = 0x00000038 ∧ row = w.extractLsb' 8 2) ∧
    (decode w = .ok .mm2 ↔ w &&& 0xFFFFFFFF = 0x00000040) ∧
    (decode w = .ok .mm4 ↔ w &&& 0xFFFFFFFF = 0x00000041) ∧
    (decode w = .ok .mm ↔ w &&& 0xFFFFFFFF = 0x00000042)

/-- R95: a word illegal on one of the three grounds raises `IllegalCmd` and changes no other state; every
other word decodes; 242 OPC values are unassigned. -/
def Obligations.IllegalWordRaisesIllegalCmd : Prop :=
  (∀ (s : State) (c : Command) (rest : List Input),
    s.inputs = .command c :: rest → s.fault = false → illegalWord c.cmd →
      step s = .next (({ s with inputs := rest, port := c } : State).faulted .illegalCmd 0)) ∧
  (∀ w : Word, ¬ illegalWord w → ∃ i, decode w = .ok i) ∧
  ((List.range 256).filter fun n => !assignedOpcodes.contains (BitVec.ofNat 8 n)).length = 242

/-- The words of the spec's own examples decode to the commands they are said to be. -/
def Obligations.ExampleWordsDecode : Prop :=
  decode 0x00020010 = .ok (.vlreq 2 0) ∧ decode 0x00000020 = .ok (.cld 0) ∧
  decode 0x00000021 = .ok (.cst 0) ∧ decode 0x00000122 = .ok (.sld 1) ∧
  decode 0x00003030 = .ok (.czero 3) ∧ decode 0x00000031 = .ok (.cmac 0 0) ∧
  decode 0x00000038 = .ok (.wb 0) ∧ decode 0x00000008 = .ok (.csrw 0x000) ∧
  decode 0x01400008 = .ok (.csrw 0x014) ∧ decode 0x00700009 = .ok (.csrr 0x007) ∧
  decode 0x00000042 = .ok .mm

/-! ### The machine -/

/-- When the host's next command decodes to `i`, the step is `exec i` with the record on the command
interface and taken off the stream. -/
def Obligations.StepRunsDecodedCommand : Prop :=
  ∀ (s : State) (c : Command) (rest : List Input) (i : Instr),
    s.inputs = .command c :: rest → decode c.cmd = .ok i →
      step s = exec i { s with inputs := rest, port := c }

/-- With no command the engine is idle and keeps all its state. -/
def Obligations.IdleKeepsState : Prop :=
  ∀ s : State, s.inputs = [] → step s = .next s

/-- No step ends the machine: every step answers a next state. For a job that is not well-formed, and for
`DIM_N = 0`, this is the model's choice (log 6): 93_implementation_defined.md U1 and U5 let such a
job be refused or never end. -/
def Obligations.StepAnswersNext : Prop :=
  ∀ s : State, ∃ t, step s = .next t

/-- R100: a command appends one response; a fault answers 0; otherwise the data is the granted length, the
register read, or 0. -/
def Obligations.OneResponsePerCommand : Prop :=
  ∀ (s t : State) (c : Command) (rest : List Input),
    s.inputs = .command c :: rest → step s = .next t →
      ∃ r : Response, t.responses = r :: s.responses ∧
        (r.fault = true → r.data = 0 ∧ t.fault = true) ∧
        (r.fault = false →
          ∃ i, decode c.cmd = .ok i ∧
            (∀ ew grp, i = .vlreq ew grp → r.data = t.vl.setWidth 64) ∧
            (∀ csr, i = .csrr csr → (csr, r.data) ∈ t.csrTable) ∧
            ((∀ ew grp, i ≠ .vlreq ew grp) → (∀ csr, i ≠ .csrr csr) → r.data = 0))

/-! ### The fault state (spec/60_exceptions.md) -/

/-- R267: with a fault recorded, a read of an implemented register and SRESET run; every other command
changes no state and is answered `(0, 1)`. -/
def Obligations.FaultStateRefusesOthers : Prop :=
  ∀ (s : State) (c : Command) (rest : List Input),
    s.inputs = .command c :: rest → s.fault = true →
      (∀ csr d, decode c.cmd = .ok (.csrr csr) → (csr, d) ∈ s.csrTable →
        step s = .next (({ s with inputs := rest, port := c } : State).answered d)) ∧
      (decode c.cmd = .ok .sreset →
        ∃ t, step s = .next t ∧ t.controlReset ∧ t.responses = { data := 0, fault := false } :: s.responses) ∧
      (decode c.cmd ≠ .ok .sreset →
        (∀ csr d, decode c.cmd = .ok (.csrr csr) → (csr, d) ∉ s.csrTable) →
          step s = .next (({ s with inputs := rest, port := c } : State).turnedAway))

/-- A command that faults sets FAULT, records a cause and its own command word, records an address only for
causes 5 and 6, and is answered `(0, 1)`. -/
def Obligations.FaultEntryRecordsCommand : Prop :=
  ∀ (i : Instr) (s t : State), s.fault = false → exec i s = .next t → t.fault = true →
    t.cause ≠ .none ∧ t.fcmd = s.port.cmd ∧
    (t.cause ≠ .misaligned → t.cause ≠ .accessFault → t.faddr = 0) ∧
    t.responses = { data := 0, fault := true } :: s.responses

/-- A fault of cause 1 to 5 raised by a command that is not a job changes nothing but the fault state. -/
def Obligations.FaultsArePrecise : Prop :=
  ∀ (i : Instr) (s t : State), s.fault = false → ¬ isJob i → exec i s = .next t → t.fault = true →
    t.cause ≠ .accessFault → ∃ a, t = s.faulted t.cause a

/-- A fault, once recorded, is left only by SRESET or a hardware reset, and until then its evidence stays. -/
def Obligations.FaultClearedOnlyByReset : Prop :=
  ∀ (s t : State) (x : Input) (rest : List Input),
    s.inputs = x :: rest → s.fault = true → step s = .next t →
      (t.fault = true ∧ t.cause = s.cause ∧ t.fcmd = s.fcmd ∧ t.faddr = s.faddr) ∨
      (∃ c, x = .command c ∧ decode c.cmd = .ok .sreset) ∨ (∃ k, x = .reset k) ∨ ∃ k c n m, x = .resetDuring k c n m

/-! ### Control commands and registers (spec/45_dispatch_control.md, spec/10_state.md) -/

/-- R212: NOP answers `(0, 0)` and changes nothing; its unused bits must be zero; it is refused in the fault
state. -/
def Obligations.NopAnswersZero : Prop :=
  decode 0x00000000 = .ok .nop ∧
  (∀ w : Word, w.extractLsb' 0 8 = 0 → w.extractLsb' 8 24 ≠ 0 → decode w = .error .nonzeroUnusedBits) ∧
  (∀ s : State, s.fault = false → exec .nop s = .next (s.answered 0)) ∧
  (∀ s : State, s.fault = true → exec .nop s = .next s.turnedAway)

/-- R213: SRESET, from every state: the registers and flags take their reset values, the slots, SCAL and memory
are kept, the answer is `(0, 0)`. With an unused bit set it is illegal, and refused in the fault state. -/
def Obligations.SresetRestoresReset : Prop :=
  decode 0x00000001 = .ok .sreset ∧
  (∀ (s : State) (c : Command) (rest : List Input), s.inputs = .command c :: rest →
    c.cmd.extractLsb' 0 8 = 1 → c.cmd.extractLsb' 8 24 ≠ 0 →
      (s.fault = false → step s = .next (({ s with inputs := rest, port := c } : State).faulted .illegalCmd 0)) ∧
      (s.fault = true → step s = .next (({ s with inputs := rest, port := c } : State).turnedAway))) ∧
  ∀ s : State, ∃ t, exec .sreset s = .next t ∧ t.controlReset ∧
    t.acc = s.acc ∧ t.bbuf = s.bbuf ∧ t.wbs = s.wbs ∧ t.scal = s.scal ∧ t.mem = s.mem ∧
    t.params = s.params ∧ t.port = s.port ∧ t.inputs = s.inputs ∧ t.trace = s.trace ∧ t.draws = s.draws ∧
    t.responses = { data := 0, fault := false } :: s.responses

/-- R214: CSRW with no fault recorded, for every register number and value. -/
def Obligations.CsrwWritesRegister : Prop :=
  ∀ s : State, s.fault = false →
    (∀ csr, csr ∉ writableCsrs → exec (.csrw csr) s = .next (s.faulted .illegalCsr 0)) ∧
    (legalFmt (s.port.opA.setWidth 32) = false → exec (.csrw 0x000) s = .next (s.faulted .illegalCfg 0)) ∧
    (legalFmt (s.port.opA.setWidth 32) = true →
      exec (.csrw 0x000) s = .next (({ s with fmt := s.port.opA.setWidth 32 } : State).answered 0)) ∧
    exec (.csrw 0x010) s = .next
      (({ s with cbase := BitVec.ofNat 64 (s.port.opA.toNat % 2 ^ s.params.aw.bits) } : State).answered 0) ∧
    exec (.csrw 0x011) s = .next
      (({ s with abase := BitVec.ofNat 64 (s.port.opA.toNat % 2 ^ s.params.aw.bits) } : State).answered 0) ∧
    exec (.csrw 0x012) s = .next
      (({ s with bbase := BitVec.ofNat 64 (s.port.opA.toNat % 2 ^ s.params.aw.bits) } : State).answered 0) ∧
    exec (.csrw 0x013) s = .next (({ s with dimM := s.port.opA.setWidth 32 } : State).answered 0) ∧
    exec (.csrw 0x014) s = .next (({ s with dimN := s.port.opA.setWidth 32 } : State).answered 0) ∧
    exec (.csrw 0x015) s = .next (({ s with dimP := s.port.opA.setWidth 32 } : State).answered 0) ∧
    exec (.csrw 0x016) s = .next (({ s with mStart := s.port.opA.setWidth 32 } : State).answered 0) ∧
    exec (.csrw 0x017) s = .next (({ s with mEnd := s.port.opA.setWidth 32 } : State).answered 0) ∧
    exec (.csrw 0x018) s = .next (({ s with pStart := s.port.opA.setWidth 32 } : State).answered 0) ∧
    exec (.csrw 0x019) s = .next (({ s with pEnd := s.port.opA.setWidth 32 } : State).answered 0)

/-- R215: CSRR answers the register and changes nothing, also in the fault state; a number that is not
implemented raises `IllegalCsr`, and is refused in the fault state. -/
def Obligations.CsrrAnswersRegister : Prop :=
  ∀ (s : State) (csr : BitVec 12),
    (∀ d, (csr, d) ∈ s.csrTable → exec (.csrr csr) s = .next (s.answered d)) ∧
    ((∀ d, (csr, d) ∉ s.csrTable) → s.fault = false → exec (.csrr csr) s = .next (s.faulted .illegalCsr 0)) ∧
    ((∀ d, (csr, d) ∉ s.csrTable) → s.fault = true → exec (.csrr csr) s = .next s.turnedAway)

/-- The fields of VCFG, STATUS, CAUSE and IMPL (R33 to R36, R262). -/
def Obligations.RegisterFields : Prop :=
  ∀ s : State,
    (s.vcfgWord.extractLsb' 0 2 = s.vsew ∧ s.vcfgWord.extractLsb' 2 2 = s.vgrp ∧
      s.vcfgWord.getLsbD 4 = s.vlvalid ∧ s.vcfgWord.extractLsb' 5 27 = 0) ∧
    (s.statusWord.getLsbD 0 = s.fault ∧ s.statusWord.extractLsb' 1 1 = s.cur ∧
      s.statusWord.getLsbD 2 = s.rbf ∧ s.statusWord.extractLsb' 3 29 = 0) ∧
    (s.causeWord.extractLsb' 4 28 = 0 ∧ s.causeWord.extractLsb' 0 4 = s.cause.code) ∧
    (s.implWord.extractLsb' 0 32 = BitVec.ofNat 32 s.params.vlen ∧
      s.implWord.extractLsb' 32 8 = BitVec.ofNat 8 s.params.aw.bits ∧ s.implWord.extractLsb' 40 24 = 0) ∧
    Cause.none.code = 0 ∧ Cause.illegalCmd.code = 1 ∧ Cause.illegalCsr.code = 2 ∧ Cause.illegalCfg.code = 3 ∧
    Cause.vcfgMismatch.code = 4 ∧ Cause.misaligned.code = 5 ∧ Cause.accessFault.code = 6

/-- The legal values of FMT and the widths each selects (R30, R11). -/
def Obligations.FormatOfFmt : Prop :=
  ∀ v : Word,
    (legalFmt v = true ↔
      v.extractLsb' 5 27 = 0 ∧ v.extractLsb' 0 2 ≠ 0 ∧ ¬ (v.getLsbD 2 = true ∧ v.extractLsb' 0 2 = 3) ∧
        ¬ (v.getLsbD 2 = true ∧ v.extractLsb' 3 2 = 3)) ∧
    (formatOf v = none ↔ v.extractLsb' 0 2 = 0) ∧
    (legalFmt v = true → ∃ f, formatOf v = some f ∧
      f.storage.bits = 8 * 2 ^ (v.extractLsb' 0 2).toNat ∧ f.storage.code = v.extractLsb' 0 2 ∧
      f.widen = v.getLsbD 2 ∧ f.grp = v.extractLsb' 3 2 ∧
      f.acc.bits = (if v.getLsbD 2 then 2 * f.storage.bits else f.storage.bits) ∧
      f.acc.code = (if v.getLsbD 2 then v.extractLsb' 0 2 + 1 else v.extractLsb' 0 2) ∧
      f.eb = f.storage.bits / 8 ∧ f.cb = 2 * f.eb)

/-- Which commands write the negotiated configuration, CUR, RBF, the cursors and the job registers. -/
def Obligations.ConfigurationWrittenOnlyBy : Prop :=
  ∀ (i : Instr) (s t : State), exec i s = .next t → i ≠ .sreset →
    ((∀ ew grp, i ≠ .vlreq ew grp) → ¬ isJob i →
      t.vl = s.vl ∧ t.vsew = s.vsew ∧ t.vgrp = s.vgrp ∧ t.vlvalid = s.vlvalid) ∧
    (¬ isJob i → t.cur = s.cur ∧ t.rbf = s.rbf ∧ t.pCur = s.pCur ∧ t.mCur = s.mCur ∧ t.nCur = s.nCur) ∧
    ((∀ csr, i ≠ .csrw csr) →
      t.fmt = s.fmt ∧ t.cbase = s.cbase ∧ t.abase = s.abase ∧ t.bbase = s.bbase ∧
      t.dimM = s.dimM ∧ t.dimN = s.dimN ∧ t.dimP = s.dimP ∧
      (i ≠ .mm → t.mStart = s.mStart ∧ t.mEnd = s.mEnd ∧ t.pStart = s.pStart ∧ t.pEnd = s.pEnd)) ∧
    ((∀ r, i ≠ .sld r) → ¬ isJob i → t.scal = s.scal)

/-- No step changes the parameters of the implementation. -/
def Obligations.ParametersAreFixed : Prop :=
  ∀ s t : State, step s = .next t → t.params = s.params

/-! ### The negotiator (spec/40_vln.md) -/

/-- R123: VLREQ negotiates, whatever FMT holds, and answers the granted length, which fits 32 bits; a word with
EW = 0 or an unused bit set is illegal. -/
def Obligations.VlreqNegotiates : Prop :=
  (∀ (s : State) (ew grp : BitVec 2), s.fault = false → ew ≠ 0 →
    exec (.vlreq ew grp) s = .next
      (({ s with
          vl := BitVec.ofNat 32 (min s.port.opA.toNat (2 ^ grp.toNat * s.params.vlen / (8 * 2 ^ ew.toNat)))
          vsew := ew
          vgrp := grp
          vlvalid := true } : State).answered
        (BitVec.ofNat 64 (min s.port.opA.toNat (2 ^ grp.toNat * s.params.vlen / (8 * 2 ^ ew.toNat))))) ∧
    min s.port.opA.toNat (2 ^ grp.toNat * s.params.vlen / (8 * 2 ^ ew.toNat)) < 2 ^ 32) ∧
  ∀ w : Word, w.extractLsb' 0 8 = 0x10 → (w.extractLsb' 16 2 = 0 ∨ w &&& 0xFFF0FF00 ≠ 0) →
    ∃ e, decode w = .error e

/-- R121: the longest length is an exact quotient and at least 1; the grant is the smaller of it and the
length asked for. -/
def Obligations.GrantBounds : Prop :=
  ∀ (p : Config.Params) (ew grp : BitVec 2) (rem : Nat), ew ≠ 0 →
    vlmax p ew grp * (8 * 2 ^ ew.toNat) = 2 ^ grp.toNat * p.vlen ∧ 1 ≤ vlmax p ew grp ∧
    grant p rem ew grp = min rem (vlmax p ew grp) ∧ grant p rem ew grp ≤ rem ∧
    (0 < rem → 0 < grant p rem ew grp) ∧ grant p 0 ew grp = 0

/-- R125: the grant is monotone, is the length asked for iff that is at most the longest one, and a sweep
over a length takes the quotient rounded up of tiles, all but the last of the longest length. -/
def Obligations.SweepCoversLength : Prop :=
  ∀ (p : Config.Params) (ew grp : BitVec 2), ew ≠ 0 →
    (∀ a b, a ≤ b → grant p a ew grp ≤ grant p b ew grp) ∧
    (∀ a, grant p a ew grp = a ↔ a ≤ vlmax p ew grp) ∧
    ∀ len,
      (sweep (fun rem => grant p rem ew grp) len len).length = (len + vlmax p ew grp - 1) / vlmax p ew grp ∧
      (sweep (fun rem => grant p rem ew grp) len len).sum = len ∧
      ∀ v ∈ (sweep (fun rem => grant p rem ew grp) len len).dropLast, v = vlmax p ew grp

/-- Doubling the width and the grouping does not change the granted length. -/
def Obligations.ToggleKeepsLength : Prop :=
  ∀ (p : Config.Params) (ew grp : BitVec 2) (rem : Nat), ew ≠ 0 → ew ≠ 3 → grp ≠ 3 →
    vlmax p (ew + 1) (grp + 1) = vlmax p ew grp ∧ grant p rem (ew + 1) (grp + 1) = grant p rem ew grp

/-! ### Lane commands (spec/41_loadstore.md, spec/42_cmac.md, spec/44_writeback.md) -/

/-- The checks of the six commands that need FMT, in their order: FMT, negotiated configuration, alignment;
a command that fails one changes nothing but the fault state. -/
def Obligations.ChecksInOrder : Prop :=
  ∀ (s : State) (i : Instr), s.fault = false → i.wellFormed = true → usesFormat i →
    (s.fmt.extractLsb' 0 2 = 0 → exec i s = .next (s.faulted .illegalCfg 0)) ∧
    ∀ f, s.format = some f →
      (∀ c g, laneCheck f i = some (c, g) → ¬ s.vcfgFits f c g → exec i s = .next (s.faulted .vcfgMismatch 0)) ∧
      ((∀ c g, laneCheck f i = some (c, g) → s.vcfgFits f c g) → addressesElements i →
        s.addrOperand % f.eb ≠ 0 → exec i s = .next (s.faulted .misaligned s.addrOperand))

/-- CLD: lanes `0 .. VL−1` of the named slot take the elements of memory, every other bit of it is kept, the
requests are those of R70, nothing else changes. -/
def Obligations.CldLoadsLanes : Prop :=
  ∀ (s : State) (f : Format) (vsel : BitVec 2) (d : SlotName), s.Inv → s.fault = false →
    s.format = some f → s.vcfgFits f f.storage.code false →
    (vsel, d) ∈ [((0 : BitVec 2), SlotName.bbuf 0), (1, .bbuf 1), (2, .wbs)] →
    s.addrOperand % f.eb = 0 → s.admitsElements .read f s.addrOperand s.vl.toNat →
      ∃ x : LanePair,
        exec (.cld vsel) s = .next
          (({ s.setSlot d x with
              trace := (s.loadRequests f s.addrOperand s.vl.toNat).reverse ++ s.trace } : State).answered 0) ∧
        (s.slot d).updated x f.storage s.vl.toNat
          (fun i => (s.reValue f s.addrOperand i, s.imValue f s.addrOperand i))

/-- CLD with a request refused: `AccessFault` at the first refused request; the requests before it have been
made; the target's lanes `0 .. VL−1` hold any bits; nothing else changes. -/
def Obligations.CldAccessFault : Prop :=
  ∀ (s : State) (f : Format) (vsel : BitVec 2) (d : SlotName) (k : Nat), s.Inv → s.fault = false →
    s.format = some f → s.vcfgFits f f.storage.code false →
    (vsel, d) ∈ [((0 : BitVec 2), SlotName.bbuf 0), (1, .bbuf 1), (2, .wbs)] →
    s.addrOperand % f.eb = 0 → k < s.vl.toNat → s.admitsElements .read f s.addrOperand k →
      (s.admits .read (s.reAddr f s.addrOperand k) f.storage = false →
        ∃ (x : LanePair) (n : Nat),
          exec (.cld vsel) s = .next
            (({ s.setSlot d x with
                trace := refusedRead (s.reAddr f s.addrOperand k) f.storage ::
                  ((s.loadRequests f s.addrOperand k).reverse ++ s.trace)
                draws := n } : State).faulted .accessFault (s.reAddr f s.addrOperand k)) ∧
          (s.slot d).keepsFrom x (s.vl.toNat * f.eb)) ∧
      (s.admits .read (s.reAddr f s.addrOperand k) f.storage = true →
        s.admits .read (s.imAddr f s.addrOperand k) f.storage = false →
        ∃ (x : LanePair) (n : Nat),
          exec (.cld vsel) s = .next
            (({ s.setSlot d x with
                trace := refusedRead (s.imAddr f s.addrOperand k) f.storage ::
                  s.readRequest (s.reAddr f s.addrOperand k) f.storage ::
                  ((s.loadRequests f s.addrOperand k).reverse ++ s.trace)
                draws := n } : State).faulted .accessFault (s.imAddr f s.addrOperand k)) ∧
          (s.slot d).keepsFrom x (s.vl.toNat * f.eb))

/-- CST: the elements at the address operand take lanes `0 .. VL−1` of the named slot, every other byte of
memory is kept, the requests are those of R71, nothing else changes. -/
def Obligations.CstStoresLanes : Prop :=
  ∀ (s : State) (f : Format) (vsel : BitVec 2) (d : SlotName), s.Inv → s.fault = false →
    s.format = some f → s.vcfgFits f f.storage.code false →
    (vsel, d) ∈ [((0 : BitVec 2), SlotName.bbuf 0), (1, .bbuf 1), (2, .wbs)] →
    s.addrOperand % f.eb = 0 → s.admitsElements .write f s.addrOperand s.vl.toNat →
      ∃ m : Memory,
        exec (.cst vsel) s = .next
          (({ s with
              mem := m
              trace := (s.storeRequests f (s.slot d) s.addrOperand s.vl.toNat).reverse ++ s.trace } :
            State).answered 0) ∧
        s.storesElements m f s.addrOperand s.vl.toNat
          (fun i => (Slot.lane (s.slot d).re f.storage i, Slot.lane (s.slot d).im f.storage i))

/-- CST with the real part of element `k` the first request refused: `AccessFault` there; the elements before
it are stored, nothing else is. With its imaginary part refused, its real part is stored too. -/
def Obligations.CstAccessFault : Prop :=
  ∀ (s : State) (f : Format) (vsel : BitVec 2) (d : SlotName) (k : Nat), s.Inv → s.fault = false →
    s.format = some f → s.vcfgFits f f.storage.code false →
    (vsel, d) ∈ [((0 : BitVec 2), SlotName.bbuf 0), (1, .bbuf 1), (2, .wbs)] →
    s.addrOperand % f.eb = 0 → k < s.vl.toNat → s.admitsElements .write f s.addrOperand k →
      (s.admits .write (s.reAddr f s.addrOperand k) f.storage = false →
        ∃ m : Memory,
          exec (.cst vsel) s = .next
            (({ s with
                mem := m
                trace := refusedWrite (s.reAddr f s.addrOperand k) f.storage (Slot.lane (s.slot d).re f.storage k) ::
                  ((s.storeRequests f (s.slot d) s.addrOperand k).reverse ++ s.trace) } :
              State).faulted .accessFault (s.reAddr f s.addrOperand k)) ∧
          s.storesElements m f s.addrOperand k
            (fun i => (Slot.lane (s.slot d).re f.storage i, Slot.lane (s.slot d).im f.storage i))) ∧
      (s.admits .write (s.reAddr f s.addrOperand k) f.storage = true →
        s.admits .write (s.imAddr f s.addrOperand k) f.storage = false →
        ∃ m m' : Memory,
          exec (.cst vsel) s = .next
            (({ s with
                mem := m'
                trace := refusedWrite (s.imAddr f s.addrOperand k) f.storage (Slot.lane (s.slot d).im f.storage k) ::
                  writeRequest (s.reAddr f s.addrOperand k) f.storage (Slot.lane (s.slot d).re f.storage k) ::
                  ((s.storeRequests f (s.slot d) s.addrOperand k).reverse ++ s.trace) } :
              State).faulted .accessFault (s.imAddr f s.addrOperand k)) ∧
          s.storesElements m f s.addrOperand k
            (fun i => (Slot.lane (s.slot d).re f.storage i, Slot.lane (s.slot d).im f.storage i)) ∧
          (∀ j < f.eb, m'.read ((s.reAddr f s.addrOperand k + j) % s.space) =
            leByte (Slot.lane (s.slot d).re f.storage k) j) ∧
          ∀ y, (∀ j < f.eb, y ≠ (s.reAddr f s.addrOperand k + j) % s.space) → m'.read y = m.read y)

/-- R138: CLD followed by CST of the same slot at the same address changes no byte of memory. -/
def Obligations.LoadThenStoreRestoresMemory : Prop :=
  ∀ (s : State) (f : Format) (vsel : BitVec 2), s.Inv → s.fault = false →
    s.format = some f → s.vcfgFits f f.storage.code false → vsel ≠ 3 →
    s.addrOperand % f.eb = 0 → (∀ kind, s.admitsElements kind f s.addrOperand s.vl.toNat) →
      ∃ t u : State, exec (.cld vsel) s = .next t ∧ exec (.cst vsel) t = .next u ∧ u.mem = s.mem ∧
        u.fault = false

/-- SLD, whatever has been negotiated: the coefficient takes the element, zero-extended; or the address is not
aligned and nothing but the fault state changes; or the first refused request raises `AccessFault` and the
coefficient holds any bits. Nothing else changes. -/
def Obligations.SldLoadsCoefficient : Prop :=
  ∀ (s : State) (f : Format) (row : BitVec 2), s.fault = false → s.format = some f →
      (s.addrOperand % f.eb ≠ 0 → exec (.sld row) s = .next (s.faulted .misaligned s.addrOperand)) ∧
      (s.addrOperand % f.eb = 0 → s.admitsElements .read f s.addrOperand 1 →
        exec (.sld row) s = .next
          (({ s.setScalRow row
                { re := (s.reValue f s.addrOperand 0).setWidth 64
                  im := (s.imValue f s.addrOperand 0).setWidth 64 } with
              trace := s.readRequest (s.imAddr f s.addrOperand 0) f.storage ::
                s.readRequest (s.reAddr f s.addrOperand 0) f.storage :: s.trace } : State).answered 0)) ∧
      (s.addrOperand % f.eb = 0 → s.admits .read (s.reAddr f s.addrOperand 0) f.storage = false →
        ∃ (x : Coefficient) (n : Nat),
          exec (.sld row) s = .next
            (({ s.setScalRow row x with
                trace := refusedRead (s.reAddr f s.addrOperand 0) f.storage :: s.trace
                draws := n } : State).faulted .accessFault (s.reAddr f s.addrOperand 0))) ∧
      (s.addrOperand % f.eb = 0 → s.admits .read (s.reAddr f s.addrOperand 0) f.storage = true →
        s.admits .read (s.imAddr f s.addrOperand 0) f.storage = false →
        ∃ (x : Coefficient) (n : Nat),
          exec (.sld row) s = .next
            (({ s.setScalRow row x with
                trace := refusedRead (s.imAddr f s.addrOperand 0) f.storage ::
                  s.readRequest (s.reAddr f s.addrOperand 0) f.storage :: s.trace
                draws := n } : State).faulted .accessFault (s.imAddr f s.addrOperand 0)))

/-- CZERO: lanes `0 .. VL−1`, at the accumulator width, of the rows in the mask become zero; every other bit
of the accumulators is kept; nothing else changes. -/
def Obligations.CzeroClearsLanes : Prop :=
  ∀ (s : State) (f : Format) (mask : BitVec 4), s.Inv → s.fault = false →
    s.format = some f → s.vcfgFits f f.acc.code false →
      ∃ t : State, exec (.czero mask) s = .next t ∧
        t = ({ s with acc := t.acc } : State).answered 0 ∧
        ∀ r : BitVec 2,
          (mask.getLsbD r.toNat = true →
            (s.accRow r).updated (t.accRow r) f.acc s.vl.toNat (fun _ => (0, 0))) ∧
          (mask.getLsbD r.toNat = false → t.accRow r = s.accRow r)

/-- CMAC: each of lanes `0 .. VL−1` of the row's accumulator becomes one lane of R151 on the coefficient and
the buffer's lane; every other bit of the accumulators is kept; nothing else changes. -/
def Obligations.CmacAccumulates : Prop :=
  ∀ (s : State) (f : Format) (row : BitVec 2) (buf : BitVec 1), s.Inv → s.fault = false →
    s.format = some f → s.vcfgFits f f.storage.code true →
      ∃ t : State, exec (.cmac row buf) s = .next t ∧
        t = ({ s with acc := t.acc } : State).answered 0 ∧
        (s.accRow row).updated (t.accRow row) f.acc s.vl.toNat
          (fun i => cmac1 f
            (Slot.lane (s.accRow row).re f.acc i, Slot.lane (s.accRow row).im f.acc i)
            ((s.scalRow row).re.setWidth f.storage.bits, (s.scalRow row).im.setWidth f.storage.bits)
            (Slot.lane (s.slot (.bbuf buf)).re f.storage i, Slot.lane (s.slot (.bbuf buf)).im f.storage i)) ∧
        ∀ r, r ≠ row → t.accRow r = s.accRow r

/-- WB: the elements at the address operand, and lanes `0 .. VL−1` of WBS, become the old elements plus the
accumulator's lanes, narrowed when widened; the reads come before the writes; nothing else changes. -/
def Obligations.WbAddsRow : Prop :=
  ∀ (s : State) (f : Format) (row : BitVec 2), s.Inv → s.fault = false →
    s.format = some f → s.vcfgFits f f.storage.code true →
    s.addrOperand % f.eb = 0 → (∀ kind, s.admitsElements kind f s.addrOperand s.vl.toNat) →
      ∃ (x : LanePair) (m : Memory),
        exec (.wb row) s = .next
          (({ s with
              wbs := x
              mem := m
              trace := (s.storeRequests f x s.addrOperand s.vl.toNat).reverse ++
                ((s.loadRequests f s.addrOperand s.vl.toNat).reverse ++ s.trace) } : State).answered 0) ∧
        s.wbs.updated x f.storage s.vl.toNat
          (fun i => wbadd f (s.reValue f s.addrOperand i, s.imValue f s.addrOperand i)
            (Slot.lane (s.accRow row).re f.acc i, Slot.lane (s.accRow row).im f.acc i)) ∧
        s.storesElements m f s.addrOperand s.vl.toNat
          (fun i => wbadd f (s.reValue f s.addrOperand i, s.imValue f s.addrOperand i)
            (Slot.lane (s.accRow row).re f.acc i, Slot.lane (s.accRow row).im f.acc i))

/-- WB with a read refused: `AccessFault` at the first refused request; memory is untouched; WBS holds any
bits in lanes `0 .. VL−1`. With every read admitted and a write refused: `AccessFault` there; WBS holds the
sums; the elements before it are stored, and the real part of its own element if its imaginary part is refused.
Nothing else changes. -/
def Obligations.WbAccessFault : Prop :=
  ∀ (s : State) (f : Format) (row : BitVec 2) (k : Nat), s.Inv → s.fault = false →
    s.format = some f → s.vcfgFits f f.storage.code true → s.addrOperand % f.eb = 0 → k < s.vl.toNat →
      (s.admitsElements .read f s.addrOperand k →
        s.admits .read (s.reAddr f s.addrOperand k) f.storage = false →
        ∃ (x : LanePair) (n : Nat),
          exec (.wb row) s = .next
            (({ s with
                wbs := x
                trace := refusedRead (s.reAddr f s.addrOperand k) f.storage ::
                  ((s.loadRequests f s.addrOperand k).reverse ++ s.trace)
                draws := n } : State).faulted .accessFault (s.reAddr f s.addrOperand k)) ∧
          s.wbs.keepsFrom x (s.vl.toNat * f.eb)) ∧
      (s.admitsElements .read f s.addrOperand k →
        s.admits .read (s.reAddr f s.addrOperand k) f.storage = true →
        s.admits .read (s.imAddr f s.addrOperand k) f.storage = false →
        ∃ (x : LanePair) (n : Nat),
          exec (.wb row) s = .next
            (({ s with
                wbs := x
                trace := refusedRead (s.imAddr f s.addrOperand k) f.storage ::
                  s.readRequest (s.reAddr f s.addrOperand k) f.storage ::
                  ((s.loadRequests f s.addrOperand k).reverse ++ s.trace)
                draws := n } : State).faulted .accessFault (s.imAddr f s.addrOperand k)) ∧
          s.wbs.keepsFrom x (s.vl.toNat * f.eb)) ∧
      (s.admitsElements .read f s.addrOperand s.vl.toNat → s.admitsElements .write f s.addrOperand k →
        s.admits .write (s.reAddr f s.addrOperand k) f.storage = false →
        ∃ (x : LanePair) (m : Memory),
          exec (.wb row) s = .next
            (({ s with
                wbs := x
                mem := m
                trace := refusedWrite (s.reAddr f s.addrOperand k) f.storage (Slot.lane x.re f.storage k) ::
                  ((s.storeRequests f x s.addrOperand k).reverse ++
                    ((s.loadRequests f s.addrOperand s.vl.toNat).reverse ++ s.trace)) } :
              State).faulted .accessFault (s.reAddr f s.addrOperand k)) ∧
          s.wbs.updated x f.storage s.vl.toNat
            (fun i => wbadd f (s.reValue f s.addrOperand i, s.imValue f s.addrOperand i)
              (Slot.lane (s.accRow row).re f.acc i, Slot.lane (s.accRow row).im f.acc i)) ∧
          s.storesElements m f s.addrOperand k
            (fun i => (Slot.lane x.re f.storage i, Slot.lane x.im f.storage i))) ∧
      (s.admitsElements .read f s.addrOperand s.vl.toNat → s.admitsElements .write f s.addrOperand k →
        s.admits .write (s.reAddr f s.addrOperand k) f.storage = true →
        s.admits .write (s.imAddr f s.addrOperand k) f.storage = false →
        ∃ (x : LanePair) (m m' : Memory),
          exec (.wb row) s = .next
            (({ s with
                wbs := x
                mem := m'
                trace := refusedWrite (s.imAddr f s.addrOperand k) f.storage (Slot.lane x.im f.storage k) ::
                  writeRequest (s.reAddr f s.addrOperand k) f.storage (Slot.lane x.re f.storage k) ::
                  ((s.storeRequests f x s.addrOperand k).reverse ++
                    ((s.loadRequests f s.addrOperand s.vl.toNat).reverse ++ s.trace)) } :
              State).faulted .accessFault (s.imAddr f s.addrOperand k)) ∧
          s.wbs.updated x f.storage s.vl.toNat
            (fun i => wbadd f (s.reValue f s.addrOperand i, s.imValue f s.addrOperand i)
              (Slot.lane (s.accRow row).re f.acc i, Slot.lane (s.accRow row).im f.acc i)) ∧
          s.storesElements m f s.addrOperand k
            (fun i => (Slot.lane x.re f.storage i, Slot.lane x.im f.storage i)) ∧
          (∀ j < f.eb, m'.read ((s.reAddr f s.addrOperand k + j) % s.space) =
            leByte (Slot.lane x.re f.storage k) j) ∧
          ∀ y, (∀ j < f.eb, y ≠ (s.reAddr f s.addrOperand k + j) % s.space) → m'.read y = m.read y)

/-! ### Jobs (spec/43_scheduler.md, spec/45_dispatch_control.md) -/

/-- R210, R211: MM writes the full ranges and is then MM2 for `DIM_M ≤ 4` and MM4 otherwise; without a
configured FMT it raises `IllegalCfg` and writes no range. -/
def Obligations.MmDispatches : Prop :=
  ∀ s : State, s.fault = false →
    (s.fmt.extractLsb' 0 2 = 0 → exec .mm s = .next (s.faulted .illegalCfg 0)) ∧
    (s.fmt.extractLsb' 0 2 ≠ 0 → s.dimM.toNat ≤ 4 →
      exec .mm s = exec .mm2 { s with mStart := 0, mEnd := s.dimM, pStart := 0, pEnd := s.dimP }) ∧
    (s.fmt.extractLsb' 0 2 ≠ 0 → ¬ s.dimM.toNat ≤ 4 →
      exec .mm s = exec .mm4 { s with mStart := 0, mEnd := s.dimM, pStart := 0, pEnd := s.dimP })

/-- A job with an empty range answers `(0, 0)`, makes no request, and writes only RBF (and MM its ranges);
without a configured FMT it raises `IllegalCfg` and changes nothing else. -/
def Obligations.EmptyJobDoesNothing : Prop :=
  ∀ (s u : State) (i : Instr) (rb : Nat), s.fault = false → jobOf s i = some (rb, u) →
    (s.fmt.extractLsb' 0 2 = 0 → exec i s = .next (s.faulted .illegalCfg 0)) ∧
    (s.fmt.extractLsb' 0 2 ≠ 0 → (u.mEnd.toNat ≤ u.mStart.toNat ∨ u.pEnd.toNat ≤ u.pStart.toNat) →
      exec i s = .next (({ u with rbf := rb == 4 } : State).answered 0))

/-- A well-formed job (as log 18 reads R172) whose ranges are not empty and whose requests are all admitted
completes: it answers `(0, 0)`, leaves the cursors at the ends of their ranges and the storage configuration
negotiated with the length of the last column tile, sets CUR to `DIM_N mod 2` and RBF by its factor, and writes
no register, no coefficient and no accumulator row beyond those R181 and R182 name. -/
def Obligations.JobCompletes : Prop :=
  ∀ (s u : State) (i : Instr) (rb : Nat) (f : Format), s.fault = false → jobOf s i = some (rb, u) →
    u.WellFormedJob f → u.JobAdmitted f →
    u.mStart.toNat < u.mEnd.toNat → u.pStart.toNat < u.pEnd.toNat →
      ∃ t : State, exec i s = .next t ∧
        t.responses = { data := 0, fault := false } :: s.responses ∧
        t.pCur = u.pEnd ∧ t.mCur = u.mEnd ∧ t.nCur = u.dimN ∧ t.rbf = (rb == 4) ∧
        t.vl = BitVec.ofNat 32
          ((u.pEnd.toNat - u.pStart.toNat - 1) % vlmax u.params f.storage.code f.grp + 1) ∧
        t.cur = BitVec.ofNat 1 (u.dimN.toNat % 2) ∧
        t.vsew = f.storage.code ∧ t.vgrp = f.grp ∧ t.vlvalid = true ∧
        t = { u with
          acc := t.acc, bbuf := t.bbuf, wbs := t.wbs, scal := t.scal
          vl := t.vl, vsew := t.vsew, vgrp := t.vgrp, vlvalid := t.vlvalid
          cur := t.cur, rbf := t.rbf, pCur := t.pCur, mCur := t.mCur, nCur := t.nCur
          mem := t.mem, responses := t.responses, trace := t.trace } ∧
        ∀ r : BitVec 2, rb ≤ r.toNat → t.accRow r = s.accRow r ∧ t.scalRow r = s.scalRow r

/-- R185: after a well-formed job (the model's choice of log 18 in R172) every element of its part of C is the
old element plus the sum of the products, formed in the order of R151 and R185; every other byte of memory is
unchanged. -/
def Obligations.JobComputesProduct : Prop :=
  ∀ (s u : State) (i : Instr) (rb : Nat) (f : Format), s.Inv → s.fault = false → jobOf s i = some (rb, u) →
    u.WellFormedJob f → u.JobAdmitted f → u.JobDisjoint f →
      ∃ t : State, exec i s = .next t ∧
        t.responses = { data := 0, fault := false } :: s.responses ∧
        (∀ r c, u.inRanges r c →
          t.element f (u.addrC f r c) = wbadd f (s.element f (u.addrC f r c)) (u.partialSum f r c s.dimN.toNat)) ∧
        ∀ x, ¬ u.writesC f x → t.mem.read x = s.mem.read x

/-- R186: MM2 and MM4 on the same inputs, well-formed by the model's choice of log 18 in R172, leave the same
memory, bit for bit, and the same state but for the lane slots, SCAL, RBF and the order of the requests. -/
def Obligations.RowBlockIndependence : Prop :=
  ∀ (s t u : State) (f : Format), s.Inv → s.fault = false →
    s.WellFormedJob f → s.JobAdmitted f → s.JobDisjoint f →
    exec .mm2 s = .next t → exec .mm4 s = .next u →
      u = { t with
        acc := u.acc, bbuf := u.bbuf, wbs := u.wbs, scal := u.scal, rbf := u.rbf, trace := u.trace }

/-- A job that ends in a fault: the cause is `IllegalCfg`, `Misaligned` or `AccessFault`, never
`VcfgMismatch`; FCMD is the job's word; the requests made before it stand. For `AccessFault` FADDR is the address
of the last request made, the one refused; for `Misaligned` it is the first element the job addresses in the first
of the arrays B, A, C whose base is not aligned; for `IllegalCfg` it is 0. -/
def Obligations.JobFaultCauses : Prop :=
  ∀ (s u t : State) (i : Instr) (rb : Nat), s.fault = false → jobOf s i = some (rb, u) →
    exec i s = .next t → t.fault = true →
      (t.cause = .illegalCfg ∨ t.cause = .misaligned ∨ t.cause = .accessFault) ∧ t.fcmd = s.port.cmd ∧
      (∃ made, t.trace = made ++ s.trace ∧ t.mem = replayWrites s.space s.mem made.reverse ∧
        (t.cause = .accessFault → ∃ r rest, made = r :: rest ∧ r.ok = false ∧
          t.faddr = BitVec.ofNat 64 r.addr ∧ ∀ q ∈ rest, q.ok = true) ∧
        (t.cause ≠ .accessFault → ∀ q ∈ made, q.ok = true)) ∧
      (t.cause = .illegalCfg → t.faddr = 0 ∧ s.fmt.extractLsb' 0 2 = 0) ∧
      (t.cause = .misaligned → ∃ f, s.format = some f ∧
        ((u.bbase.toNat % f.eb ≠ 0 ∧ t.faddr = BitVec.ofNat 64 (u.addrB f 0 u.pStart.toNat)) ∨
          (u.bbase.toNat % f.eb = 0 ∧ u.abase.toNat % f.eb ≠ 0 ∧
            t.faddr = BitVec.ofNat 64 (u.addrA f u.mStart.toNat 0)) ∨
          (u.bbase.toNat % f.eb = 0 ∧ u.abase.toNat % f.eb = 0 ∧ u.cbase.toNat % f.eb ≠ 0 ∧
            t.faddr = BitVec.ofNat 64 (u.addrC f u.mStart.toNat u.pStart.toNat))))

/-- The requests of one column tile and row block that ends without a fault: `2·v·N + 2·ROWS·N + 2·v·ROWS` reads
and `2·v·ROWS` writes in all. -/
def Obligations.BlockRequestCounts : Prop :=
  ∀ (f : Format) (rows : Nat) (s t : State), s.dimN ≠ 0 → jobBlock none f rows s = .done t →
    ∃ made, t.trace = made ++ s.trace ∧
      (made.filter fun r => decide (r.kind = .read)).length =
        2 * t.vl.toNat * s.dimN.toNat + 2 * rows * s.dimN.toNat + 2 * t.vl.toNat * rows ∧
      (made.filter fun r => decide (r.kind = .write)).length = 2 * t.vl.toNat * rows

/-! ### Memory (spec/20_memory.md) -/

/-- R62: a request that is admitted reads or writes exactly the bytes at `addr`, `addr + 1`, ... modulo the
space, byte `k` being bits `[8k+7 : 8k]`, and every other byte is unchanged. -/
def Obligations.RequestsAreLittleEndian : Prop :=
  ∀ (s : State) (a : Nat) (w : Width),
    (s.admits .read a w = true →
      ∃ (v : BitVec w.bits) (t : State), s.memRead none a w = .data v t ∧ t.mem = s.mem ∧
        ∀ k < w.bytes, v.extractLsb' (8 * k) 8 = s.mem.read ((a + k) % s.space)) ∧
    (s.admits .write a w = true →
      ∀ v : BitVec w.bits, ∃ t, s.memWrite none a w v = .done t ∧
        (∀ k < w.bytes, t.mem.read ((a + k) % s.space) = v.extractLsb' (8 * k) 8) ∧
        (∀ x, (∀ k < w.bytes, x ≠ (a + k) % s.space) → t.mem.read x = s.mem.read x) ∧
        (s.admits .read a w = true → ∃ u, t.memRead none a w = .data v u))

/-- Every request a command makes moves one part at the storage width, at an address inside the space that is
a multiple of `EB`. -/
def Obligations.RequestsAreElementSized : Prop :=
  ∀ (i : Instr) (s t : State), exec i s = .next t →
    ∃ made, t.trace = made ++ s.trace ∧
      ∀ r ∈ made, ∃ f, s.format = some f ∧ r.width = f.storage ∧ r.addr % f.eb = 0 ∧ r.addr < s.space

/-- What a command does to memory is what the writes among its requests do, in the order made. -/
def Obligations.MemoryIsReplayOfWrites : Prop :=
  ∀ (i : Instr) (s t : State), exec i s = .next t →
    ∃ made, t.trace = made ++ s.trace ∧ t.mem = replayWrites s.space s.mem made.reverse

/-- Only CST, WB and the jobs change memory. -/
def Obligations.OnlyStoresChangeMemory : Prop :=
  ∀ (i : Instr) (s t : State), exec i s = .next t →
    (∀ v, i ≠ .cst v) → (∀ r, i ≠ .wb r) → ¬ isJob i → t.mem = s.mem

/-- `op_b` is ignored: two records that differ only there have the same effect. -/
def Obligations.OpBIsIgnored : Prop :=
  ∀ (s t : State) (c : Command) (b : DWord) (rest : List Input),
    step { s with inputs := .command c :: rest } = .next t →
      step { s with inputs := .command { c with opB := b } :: rest } =
        .next { t with port := { c with opB := b } }

/-! ### Reset (spec/70_reset_and_hazards.md, spec/10_state.md) -/

/-- Hardware reset: every register and flag takes its reset value and memory is kept; a warm reset keeps the
slots and SCAL. -/
def Obligations.HardwareReset : Prop :=
  ∀ (s : State) (k : ResetKind) (rest : List Input), s.inputs = .reset k :: rest →
    ∃ t, step s = .next t ∧ t.controlReset ∧ t.mem = s.mem ∧ t.params = s.params ∧ t.inputs = rest ∧
      t.responses = s.responses ∧ t.trace = s.trace ∧
      (k = .warm → t.acc = s.acc ∧ t.bbuf = s.bbuf ∧ t.wbs = s.wbs ∧ t.scal = s.scal)

/-- A hardware reset in the middle of a command: no response; the memory is what the first `requests` requests of
the command leave, and no other was made; the registers and flags are at their reset values. After a warm reset
the slots and SCAL hold what they held: all of it where no lane work was done (`work = 0`), what the command left
where it was all done, and in any case every part that the command never writes. How far requests and lane work
have come is the input's, since the spec leaves it open (log 8). -/
def Obligations.ResetInterruptsCommand : Prop :=
  ∀ (s : State) (k : ResetKind) (c : Command) (requests work : Nat) (rest : List Input),
    s.inputs = .resetDuring k c requests work :: rest →
    ∃ t u made, step s = .next t ∧ step { s with inputs := .command c :: rest } = .next u ∧
      t.controlReset ∧ t.responses = s.responses ∧ t.inputs = rest ∧ t.params = s.params ∧
      u.trace = made ++ s.trace ∧
      t.trace = (made.reverse.take requests).reverse ++ s.trace ∧
      t.mem = replayWrites s.space s.mem (made.reverse.take requests) ∧
      (k = .warm →
        (work = 0 → t.acc = s.acc ∧ t.bbuf = s.bbuf ∧ t.wbs = s.wbs ∧ t.scal = s.scal) ∧
        (made.length ≤ requests → made.length < work →
          t.acc = u.acc ∧ t.bbuf = u.bbuf ∧ t.wbs = u.wbs ∧ t.scal = u.scal) ∧
        ∀ i, decode c.cmd = .ok i → ¬ isJob i →
          ((∀ m, i ≠ .czero m) → (∀ r b, i ≠ .cmac r b) → t.acc = s.acc) ∧
          ((∀ v, i ≠ .cld v) → t.bbuf = s.bbuf) ∧
          ((∀ v, i ≠ .cld v) → (∀ r, i ≠ .wb r) → t.wbs = s.wbs) ∧
          ((∀ r, i ≠ .sld r) → t.scal = s.scal))

/-- After a power-on, whatever the slots and coefficients hold, every register read returns its value of
R31. -/
def Obligations.PowerOnRegisters : Prop :=
  ∀ (p : Config.Params) (acc : Vector LanePair 4) (bbuf : Vector LanePair 2) (wbs : LanePair)
    (scal : Vector Coefficient 4),
    (State.powerOn p acc bbuf wbs scal).controlReset ∧
    ∀ csr d, (csr, d) ∈ (State.powerOn p acc bbuf wbs scal).csrTable →
      d = if csr = 0x007 then BitVec.ofNat 64 (p.vlen + p.aw.bits * 2 ^ 32) else 0

/-! ### Invariants -/

/-- The invariant holds after reset (a check on the values the model chose there, logs 1 to 5). -/
def Obligations.InvariantAtReset : Prop := State.reset.Inv

/-- Every step keeps the invariant. -/
def Obligations.StepKeepsInvariant : Prop :=
  ∀ s t : State, s.Inv → step s = .next t → t.Inv

/-! ### Numerics (spec/46_numerics.md) -/

/-- The magnitude to which a positive number `n · 2^(−s)` is rounded is a nearest one of the format, the one
with an even significand at half way, or infinity from half way above the largest finite magnitude on. -/
def Obligations.RoundsToNearestEven : Prop :=
  ∀ (w : Width) (s n : Nat) (neg : Bool), w.scale ≤ s →
    ((2 ^ (w.fracBits + 2) - 1) * 2 ^ (w.expOnes - 2) * 2 ^ (s - w.scale) ≤ 2 * n →
      fpPattern w neg (roundMagnitude w s n) = infinity w neg) ∧
    (2 * n < (2 ^ (w.fracBits + 2) - 1) * 2 ^ (w.expOnes - 2) * 2 ^ (s - w.scale) →
      ∃ m, fpValue w (fpPattern w neg (roundMagnitude w s n)) = .fin neg m ∧
        ∀ (x : BitVec w.bits) (neg' : Bool) (m' : Nat), fpValue w x = .fin neg' m' →
          ((m : Int) * 2 ^ (s - w.scale) - n).natAbs ≤ ((m' : Int) * 2 ^ (s - w.scale) - n).natAbs ∧
          (((m : Int) * 2 ^ (s - w.scale) - n).natAbs = ((m' : Int) * 2 ^ (s - w.scale) - n).natAbs →
            m' = m ∨ (fpPattern w neg (roundMagnitude w s n)).getLsbD 0 = false))

/-- On finite operands with an exact sum `x` other than 0, the fused operations and the addition give `x` rounded
once: its sign with its rounded magnitude; narrowing a finite value does the same. A fused operation whose exact
nonzero result is a value of the format gives that value. -/
def Obligations.FusedExactResult : Prop :=
  (∀ (w : Width) (a b c x : BitVec w.bits) (sa sb sc sx : Bool) (na nb nc nx : Nat),
    fpValue w a = .fin sa na → fpValue w b = .fin sb nb → fpValue w c = .fin sc nc →
    fpValue w x = .fin sx nx → nx ≠ 0 →
    (signed (sa != sb) (na * nb) + signed sc (nc * 2 ^ w.scale) = signed sx (nx * 2 ^ w.scale) →
      fma w a b c = x) ∧
    (signed (sa == sb) (na * nb) + signed sc (nc * 2 ^ w.scale) = signed sx (nx * 2 ^ w.scale) →
      fnma w a b c = x)) ∧
  (∀ (w : Width) (a b c : BitVec w.bits) (sa sb sc : Bool) (na nb nc : Nat) (x : Int),
    fpValue w a = .fin sa na → fpValue w b = .fin sb nb → fpValue w c = .fin sc nc → x ≠ 0 →
    (signed (sa != sb) (na * nb) + signed sc (nc * 2 ^ w.scale) = x →
      fma w a b c = fpPattern w (decide (x < 0)) (roundMagnitude w (2 * w.scale) x.natAbs)) ∧
    (signed (sa == sb) (na * nb) + signed sc (nc * 2 ^ w.scale) = x →
      fnma w a b c = fpPattern w (decide (x < 0)) (roundMagnitude w (2 * w.scale) x.natAbs)) ∧
    (signed sa na + signed sc nc = x →
      fadd w a c = fpPattern w (decide (x < 0)) (roundMagnitude w w.scale x.natAbs))) ∧
  ∀ w : Width, w ≠ .w64 → ∀ (a : BitVec w.wider.bits) (neg : Bool) (n : Nat),
    fpValue w.wider a = .fin neg n →
      narrow w.wider w a = fpPattern w neg (roundMagnitude w w.wider.scale n)

/-- Addition is commutative bit for bit (the last sentence of R239). -/
def Obligations.FaddCommutes : Prop :=
  ∀ (w : Width) (a b : BitVec w.bits), fadd w a b = fadd w b a

/-- R237: the negate-subtract form is the fused form on the first factor with its sign bit flipped, and both
are the canonical NaN when that factor is a NaN. -/
def Obligations.FnmaFlipsProductSign : Prop :=
  ∀ (w : Width) (a b c : BitVec w.bits),
    (fpValue w a ≠ .nan → fnma w a b c = fma w (a ^^^ BitVec.ofNat w.bits (2 ^ (w.bits - 1))) b c) ∧
    (fpValue w a = .nan → fnma w a b c = canonicalNaN w ∧ fma w a b c = canonicalNaN w)

/-- R240: promotion keeps the value exactly; narrowing undoes it for every pattern that is not a NaN. -/
def Obligations.PromoteIsExact : Prop :=
  ∀ w : Width, w ≠ .w64 → ∀ a : BitVec w.bits,
    (fpValue w a = .nan → promote w w.wider a = canonicalNaN w.wider) ∧
    (∀ s, fpValue w a = .inf s → promote w w.wider a = infinity w.wider s) ∧
    (∀ s n, fpValue w a = .fin s n →
      fpValue w.wider (promote w w.wider a) = .fin s (n * 2 ^ (w.wider.scale - w.scale))) ∧
    (fpValue w a ≠ .nan → narrow w.wider w (promote w w.wider a) = a)

/-- The canonical NaN patterns; every NaN result is the canonical NaN; and which operands give a NaN or an
infinity (R236 steps 1 to 4, R237, R239, R241), `neg` choosing the negate-subtract form. -/
def Obligations.NaNResultsAreCanonical : Prop :=
  (canonicalNaN .w16 = 0x7E00#16 ∧ canonicalNaN .w32 = 0x7FC00000#32 ∧
    canonicalNaN .w64 = 0x7FF8000000000000#64) ∧
  ∀ w : Width, fpValue w (canonicalNaN w) = .nan ∧ (∀ s, fpValue w (infinity w s) = .inf s) ∧
    (∀ a b c : BitVec w.bits, fpValue w (fma w a b c) = .nan → fma w a b c = canonicalNaN w) ∧
    (∀ a b c : BitVec w.bits, fpValue w (fnma w a b c) = .nan → fnma w a b c = canonicalNaN w) ∧
    (∀ a b : BitVec w.bits, fpValue w (fadd w a b) = .nan → fadd w a b = canonicalNaN w) ∧
    (∀ a : BitVec w.bits, fpValue w.wider (promote w w.wider a) = .nan →
      promote w w.wider a = canonicalNaN w.wider) ∧
    (∀ a : BitVec w.wider.bits, fpValue w (narrow w.wider w a) = .nan →
      narrow w.wider w a = canonicalNaN w) ∧
    (∀ (a b c r : BitVec w.bits) (neg : Bool), r = (if neg then fnma w a b c else fma w a b c) →
      (fpValue w a = .nan ∨ fpValue w b = .nan ∨ fpValue w c = .nan → r = canonicalNaN w) ∧
      ((fpValue w a).isInf = true → (fpValue w b).isZero = true → r = canonicalNaN w) ∧
      ((fpValue w a).isZero = true → (fpValue w b).isInf = true → r = canonicalNaN w) ∧
      (∀ sa sb, (fpValue w a).hasSign sa → (fpValue w b).hasSign sb →
        (fpValue w a).isInf = true ∨ (fpValue w b).isInf = true →
        (fpValue w c = .inf (!((sa != sb) != neg)) → r = canonicalNaN w) ∧
        (fpValue w c = .inf ((sa != sb) != neg) → r = infinity w ((sa != sb) != neg)) ∧
        ((fpValue w c).isFinite = true → r = infinity w ((sa != sb) != neg))) ∧
      ((fpValue w a).isFinite = true → (fpValue w b).isFinite = true → (fpValue w c).isInf = true → r = c)) ∧
    (∀ a b : BitVec w.bits,
      (fpValue w a = .nan ∨ fpValue w b = .nan → fadd w a b = canonicalNaN w) ∧
      (∀ s, fpValue w a = .inf s → fpValue w b = .inf (!s) → fadd w a b = canonicalNaN w) ∧
      (∀ s, fpValue w a = .inf s → fpValue w b = .inf s → fadd w a b = a) ∧
      ((fpValue w a).isInf = true → (fpValue w b).isFinite = true → fadd w a b = a) ∧
      ((fpValue w a).isFinite = true → (fpValue w b).isInf = true → fadd w a b = b)) ∧
    (w ≠ .w64 → ∀ a : BitVec w.wider.bits,
      (fpValue w.wider a = .nan → narrow w.wider w a = canonicalNaN w) ∧
      ∀ s, fpValue w.wider a = .inf s → narrow w.wider w a = infinity w s)

/-- R238: the sign of an exact zero result. -/
def Obligations.ExactZeroSign : Prop :=
  ∀ (w : Width) (a b c : BitVec w.bits) (sa sb sc : Bool) (na nb nc : Nat),
    fpValue w a = .fin sa na → fpValue w b = .fin sb nb → fpValue w c = .fin sc nc →
    (signed sa na + signed sc nc = 0 →
      fadd w a c = fpPattern w (decide (na = 0 ∧ nc = 0 ∧ sa = true ∧ sc = true)) 0) ∧
    (signed (sa != sb) (na * nb) + signed sc (nc * 2 ^ w.scale) = 0 →
      fma w a b c = fpPattern w (decide (na * nb = 0 ∧ nc = 0 ∧ (sa != sb) = true ∧ sc = true)) 0) ∧
    (signed (sa == sb) (na * nb) + signed sc (nc * 2 ^ w.scale) = 0 →
      fnma w a b c = fpPattern w (decide (na * nb = 0 ∧ nc = 0 ∧ (sa == sb) = true ∧ sc = true)) 0)
end

