-- ==== Sys2Proof/Laws/Bytes.lean ====
section
/-! SUPPORT. Laws of bytes, memory and lanes: little-endian round trips, read after write, the canonical form,
and what replacing a lane of a slot leaves alone. -/

namespace Sys2Proof.Machine

/-! ### Little-endian values -/

theorem getLsbD_leByte {n : Nat} (v : BitVec n) (k i : Nat) :
    (leByte v k).getLsbD i = (decide (i < 8) && v.getLsbD (8 * k + i)) := by
  simp [leByte]

theorem leByte_leValue (n : Nat) (f : Nat → Byte) (k : Nat) (h : k < n) :
    leByte (leValue n f) k = f k := by
  induction n generalizing f k with
  | zero => omega
  | succ n ih =>
    apply BitVec.eq_of_getLsbD_eq
    intro i hi
    rw [getLsbD_leByte]
    change (decide (i < 8) && (leValue n (fun k => f (k + 1)) ++ f 0 : BitVec (8 * n + 8)).getLsbD (8 * k + i)) = _
    rw [BitVec.getLsbD_append]
    cases k with
    | zero => simp [hi]
    | succ k =>
      have := congrArg (fun b => BitVec.getLsbD b i) (ih (fun k => f (k + 1)) k (by omega))
      simp only [getLsbD_leByte] at this
      have e : 8 * (k + 1) + i - 8 = 8 * k + i := by omega
      simpa [e, show ¬ (8 * (k + 1) + i < 8) by omega] using this

theorem eq_of_leByte_eq {n : Nat} {v w : BitVec (8 * n)} (h : ∀ k < n, leByte v k = leByte w k) : v = w := by
  apply BitVec.eq_of_getLsbD_eq
  intro i hi
  have := congrArg (fun b => BitVec.getLsbD b (i % 8)) (h (i / 8) (by omega))
  simp only [getLsbD_leByte] at this
  have e : 8 * (i / 8) + i % 8 = i := by omega
  simpa [e, show i % 8 < 8 by omega] using this

theorem leValue_congr (n : Nat) {f g : Nat → Byte} (h : ∀ k < n, f k = g k) : leValue n f = leValue n g :=
  eq_of_leByte_eq fun k hk => by rw [leByte_leValue n f k hk, leByte_leValue n g k hk, h k hk]

theorem leValue_leByte {n : Nat} (v : BitVec (8 * n)) : leValue n (leByte v) = v :=
  eq_of_leByte_eq fun k hk => leByte_leValue n _ k hk

/-- Zero-extending a value does not change its bytes. -/
theorem leByte_setWidth {n m : Nat} (v : BitVec n) (h : n ≤ m) (k : Nat) :
    leByte (v.setWidth m) k = leByte v k := by
  apply BitVec.eq_of_getLsbD_eq
  intro i hi
  simp only [getLsbD_leByte, BitVec.getLsbD_setWidth]
  by_cases hlt : 8 * k + i < m
  · simp [hlt]
  · simp [BitVec.getLsbD_of_ge v (8 * k + i) (by omega)]

/-! ### Memory, one byte at a time -/

theorem Memory.read_erase_ne (m : Memory) {a b : Nat} (h : b ≠ a) : (m.erase a).read b = m.read b := by
  induction m with
  | nil => rfl
  | cons c m ih =>
    by_cases hc : c.1 = a
    · have : Memory.erase (c :: m) a = Memory.erase m a := by simp [Memory.erase, hc]
      rw [this, ih, Memory.read, if_neg (by omega)]
    · have : Memory.erase (c :: m) a = c :: Memory.erase m a := by simp [Memory.erase, hc]
      rw [this, Memory.read, Memory.read, ih]

theorem Memory.read_erase_same (m : Memory) (a : Nat) : (m.erase a).read a = Memory.unlisted := by
  induction m with
  | nil => rfl
  | cons c m ih =>
    by_cases hc : c.1 = a
    · have : Memory.erase (c :: m) a = Memory.erase m a := by simp [Memory.erase, hc]
      rw [this, ih]
    · have : Memory.erase (c :: m) a = c :: Memory.erase m a := by simp [Memory.erase, hc]
      rw [this, Memory.read, if_neg hc, ih]

theorem Memory.read_insert_ne (m : Memory) {a b : Nat} (v : Byte) (h : b ≠ a) :
    (m.insert a v).read b = m.read b := by
  induction m with
  | nil => simp [Memory.insert, Memory.read, Ne.symm h]
  | cons c m ih =>
    unfold Memory.insert
    split
    · rw [Memory.read, if_neg (Ne.symm h)]
    · rw [Memory.read, Memory.read, ih]

theorem Memory.read_insert_erase_same (m : Memory) (a : Nat) (v : Byte) :
    ((m.erase a).insert a v).read a = v := by
  induction m with
  | nil => simp [Memory.erase, Memory.insert, Memory.read]
  | cons c m ih =>
    by_cases hc : c.1 = a
    · have : Memory.erase (c :: m) a = Memory.erase m a := by simp [Memory.erase, hc]
      rw [this, ih]
    · have : Memory.erase (c :: m) a = c :: Memory.erase m a := by simp [Memory.erase, hc]
      rw [this]
      unfold Memory.insert
      split
      · simp [Memory.read]
      · rw [Memory.read, if_neg hc, ih]

/-- A read after a write to the same byte gives the byte written. -/
@[simp] theorem Memory.read_write_same (m : Memory) (a : Nat) (v : Byte) : (m.write a v).read a = v := by
  unfold Memory.write
  split
  · rename_i h; rw [Memory.read_erase_same, h]
  · exact Memory.read_insert_erase_same m a v

/-- A write leaves every other byte alone. -/
theorem Memory.read_write_ne (m : Memory) {a b : Nat} (v : Byte) (h : b ≠ a) :
    (m.write a v).read b = m.read b := by
  unfold Memory.write
  split
  · exact Memory.read_erase_ne m h
  · rw [Memory.read_insert_ne _ _ h, Memory.read_erase_ne m h]

/-! ### The canonical form -/

theorem Memory.wf_cons (k : Nat) (b : Byte) (m : Memory) :
    Memory.wf ((k, b) :: m) = true ↔
      b ≠ Memory.unlisted ∧ (∀ c ∈ m, k < c.1) ∧ Memory.wf m = true := by
  simp [Memory.wf, and_assoc]

theorem Memory.mem_erase {m : Memory} {a : Nat} {c : Host.Cell} : c ∈ m.erase a ↔ c ∈ m ∧ c.1 ≠ a := by
  simp [Memory.erase]

theorem Memory.mem_insert {m : Memory} {a : Nat} {v : Byte} {c : Host.Cell} :
    c ∈ m.insert a v ↔ c = (a, v) ∨ c ∈ m := by
  induction m with
  | nil => simp [Memory.insert]
  | cons d m ih =>
    unfold Memory.insert
    split
    · simp
    · simp only [List.mem_cons, ih]; tauto

theorem Memory.wf_erase {m : Memory} (a : Nat) (h : m.wf = true) : (m.erase a).wf = true := by
  induction m with
  | nil => rfl
  | cons c m ih =>
    obtain ⟨k, b⟩ := c
    obtain ⟨hb, hk, hm⟩ := (Memory.wf_cons k b m).1 h
    by_cases hc : k = a
    · have : Memory.erase ((k, b) :: m) a = Memory.erase m a := by simp [Memory.erase, hc]
      rw [this]; exact ih hm
    · have : Memory.erase ((k, b) :: m) a = (k, b) :: Memory.erase m a := by simp [Memory.erase, hc]
      rw [this, Memory.wf_cons]
      exact ⟨hb, fun c hcm => hk c (Memory.mem_erase.1 hcm).1, ih hm⟩

theorem Memory.wf_insert {m : Memory} {a : Nat} {v : Byte} (hv : v ≠ Memory.unlisted)
    (hfree : ∀ c ∈ m, c.1 ≠ a) (h : m.wf = true) : (m.insert a v).wf = true := by
  induction m with
  | nil => simp [Memory.insert, Memory.wf, hv]
  | cons c m ih =>
    obtain ⟨k, b⟩ := c
    obtain ⟨hb, hk, hm⟩ := (Memory.wf_cons k b m).1 h
    have hne := hfree (k, b) (by simp)
    unfold Memory.insert
    split
    · rename_i hlt
      rw [Memory.wf_cons]
      refine ⟨hv, ?_, h⟩
      intro c hc
      rcases List.mem_cons.1 hc with rfl | hc
      · exact hlt
      · have := hk c hc; omega
    · rename_i hge
      rw [Memory.wf_cons]
      refine ⟨hb, ?_, ih (fun c hc => hfree c (by simp [hc])) hm⟩
      intro c hc
      rcases Memory.mem_insert.1 hc with rfl | hc
      · simp only at hne ⊢; omega
      · exact hk c hc

/-- A write keeps the canonical form. -/
theorem Memory.wf_write {m : Memory} (a : Nat) (v : Byte) (h : m.wf = true) : (m.write a v).wf = true := by
  unfold Memory.write
  split
  · exact Memory.wf_erase a h
  · rename_i hv
    exact Memory.wf_insert hv (fun c hc => (Memory.mem_erase.1 hc).2) (Memory.wf_erase a h)

/-- The addresses a write can list: the old ones and its own. -/
theorem Memory.addr_of_mem_write {m : Memory} {a : Nat} {v : Byte} {c : Host.Cell} (h : c ∈ m.write a v) :
    c.1 = a ∨ c ∈ m := by
  unfold Memory.write at h
  split at h
  · exact .inr (Memory.mem_erase.1 h).1
  · rcases Memory.mem_insert.1 h with rfl | h
    · exact .inl rfl
    · exact .inr (Memory.mem_erase.1 h).1

theorem Memory.read_of_lt {m : Memory} {a : Nat} (h : ∀ c ∈ m, a < c.1) : m.read a = Memory.unlisted := by
  induction m with
  | nil => rfl
  | cons c m ih =>
    have := h c (by simp)
    rw [Memory.read, if_neg (by omega)]
    exact ih fun c hc => h c (by simp [hc])

/-- Two memories in canonical form that read alike everywhere are equal. -/
theorem Memory.ext {m n : Memory} (hm : m.wf = true) (hn : n.wf = true) (h : ∀ a, m.read a = n.read a) :
    m = n := by
  induction m generalizing n with
  | nil =>
    cases n with
    | nil => rfl
    | cons c n =>
      obtain ⟨k, b⟩ := c
      have := h k
      simp [Memory.read] at this
      exact absurd this.symm ((Memory.wf_cons k b n).1 hn).1
  | cons c m ih =>
    obtain ⟨k, b⟩ := c
    obtain ⟨hb, hk, hm'⟩ := (Memory.wf_cons k b m).1 hm
    cases n with
    | nil =>
      have := h k
      simp [Memory.read] at this
      exact absurd this hb
    | cons d n =>
      obtain ⟨l, e⟩ := d
      obtain ⟨he, hl, hn'⟩ := (Memory.wf_cons l e n).1 hn
      have h1 := h k
      have h2 := h l
      simp only [Memory.read, if_true] at h1 h2
      have hkl : k = l := by
        rcases Nat.lt_trichotomy k l with hlt | heq | hgt
        · rw [if_neg (by omega), Memory.read_of_lt fun c hc => by have := hl c hc; omega] at h1
          exact absurd h1 hb
        · exact heq
        · rw [if_neg (by omega), Memory.read_of_lt fun c hc => by have := hk c hc; omega] at h2
          exact absurd h2.symm he
      subst hkl
      rw [if_pos rfl] at h1
      subst h1
      have : m = n := by
        refine ih hm' hn' fun a => ?_
        have ha := h a
        simp only [Memory.read] at ha
        by_cases hka : k = a
        · subst hka
          rw [Memory.read_of_lt hk, Memory.read_of_lt hl]
        · simpa [if_neg hka] using ha
      rw [this]

/-! ### Wide accesses -/

theorem Memory.wf_writeBytes {m : Memory} (size a : Nat) {b : Nat} (v : BitVec b) (n : Nat) (h : m.wf = true) :
    (m.writeBytes size a v n).wf = true := by
  induction n with
  | zero => exact h
  | succ n ih => exact Memory.wf_write _ _ ih

theorem Memory.addr_lt_writeBytes {m : Memory} {size : Nat} (hs : 0 < size) (a : Nat) {b : Nat} (v : BitVec b)
    (n : Nat) (h : ∀ c ∈ m, c.1 < size) : ∀ c ∈ m.writeBytes size a v n, c.1 < size := by
  induction n with
  | zero => exact h
  | succ n ih =>
    intro c hc
    rcases Memory.addr_of_mem_write hc with he | hc
    · rw [he]; exact Nat.mod_lt _ hs
    · exact ih c hc

/-- A store leaves every byte outside its own bytes alone. -/
theorem Memory.read_writeBytes_ne (m : Memory) (size a : Nat) {b : Nat} (v : BitVec b) (n x : Nat)
    (h : ∀ k < n, x ≠ (a + k) % size) : (m.writeBytes size a v n).read x = m.read x := by
  induction n with
  | zero => rfl
  | succ n ih =>
    rw [Memory.writeBytes, Memory.read_write_ne _ _ (h n (by omega)), ih fun k hk => h k (by omega)]

/-- A store puts byte `k` of the value at its `k`-th address, where its addresses are distinct. -/
theorem Memory.read_writeBytes (m : Memory) (size a : Nat) {b : Nat} (v : BitVec b) (n k : Nat) (hk : k < n)
    (hn : n ≤ size) : (m.writeBytes size a v n).read ((a + k) % size) = leByte v k := by
  induction n with
  | zero => omega
  | succ n ih =>
    rw [Memory.writeBytes]
    by_cases h : k = n
    · subst h; exact Memory.read_write_same _ _ _
    · rw [Memory.read_write_ne, ih (by omega) (by omega)]
      intro heq
      have h1 : (a + k) % size = (a + n) % size := heq
      have h2 : (a + n - (a + k)) % size = 0 := Nat.sub_mod_eq_zero_of_mod_eq h1.symm
      rw [show a + n - (a + k) = n - k by omega, Nat.mod_eq_of_lt (by omega)] at h2
      omega

/-- The value read is determined by its bytes. -/
theorem Memory.readValue_congr {m m' : Memory} (size a n : Nat)
    (h : ∀ k < n, m.read ((a + k) % size) = m'.read ((a + k) % size)) :
    m.readValue size a n = m'.readValue size a n := leValue_congr n h

/-- A value read after it was written is the value written (20_memory.md R62). -/
theorem Memory.readValue_writeValue (m : Memory) (size a n : Nat) (v : BitVec (8 * n)) (hn : n ≤ size) :
    (m.writeValue size a n v).readValue size a n = v := by
  rw [← leValue_leByte v]
  exact leValue_congr n fun k hk => by
    rw [leValue_leByte]; exact Memory.read_writeBytes m size a v n k hk hn

/-- Writing back the value just read changes no byte. -/
theorem Memory.read_writeValue_readValue (m : Memory) (size a n x : Nat) (hn : n ≤ size) :
    (m.writeValue size a n (m.readValue size a n)).read x = m.read x := by
  by_cases h : ∃ k < n, x = (a + k) % size
  · obtain ⟨k, hk, rfl⟩ := h
    rw [Memory.writeValue, Memory.read_writeBytes m size a _ n k hk hn, Memory.readValue, leByte_leValue _ _ _ hk]
  · exact Memory.read_writeBytes_ne m size a _ n x fun k hk he => h ⟨k, hk, he⟩

/-! ### Slots -/

@[simp] theorem Slot.length_put (S : Slot) (o : Nat) {b : Nat} (v : BitVec b) (n : Nat) :
    (Slot.put S o v n).length = S.length := by
  induction n with
  | zero => rfl
  | succ n ih => simp [Slot.put, ih]

@[simp] theorem Slot.length_setLane (S : Slot) (w : Width) (i : Nat) (v : BitVec w.bits) :
    (Slot.setLane S w i v).length = S.length := Slot.length_put S _ v _

@[simp] theorem Slot.length_free (S : Slot) (d n : Nat) : (Slot.free S d n).length = S.length := by
  simp [Slot.free]

theorem Slot.byte_set (S : Slot) (i : Nat) (b : Byte) (k : Nat) :
    Slot.byte (S.set i b) k = if i = k ∧ k < S.length then b else Slot.byte S k := by
  simp only [Slot.byte, List.getD_eq_getElem?_getD, List.getElem?_set]
  by_cases h : i = k
  · subst h
    by_cases hk : i < S.length
    · simp [hk]
    · simp [hk]
  · simp [h]

/-- A byte outside those put keeps its value. -/
theorem Slot.byte_put_ne (S : Slot) (o : Nat) {b : Nat} (v : BitVec b) (n k : Nat) (h : k < o ∨ o + n ≤ k) :
    Slot.byte (Slot.put S o v n) k = Slot.byte S k := by
  induction n with
  | zero => rfl
  | succ n ih => rw [Slot.put, Slot.byte_set, if_neg (by omega), ih (by omega)]

/-- The bytes put, where the slot has them. -/
theorem Slot.byte_put (S : Slot) (o : Nat) {b : Nat} (v : BitVec b) (n k : Nat) (hk : k < n)
    (hl : o + n ≤ S.length) : Slot.byte (Slot.put S o v n) (o + k) = leByte v k := by
  induction n with
  | zero => omega
  | succ n ih =>
    rw [Slot.put, Slot.byte_set]
    by_cases h : n = k
    · subst h; rw [if_pos ⟨rfl, by rw [Slot.length_put]; omega⟩]
    · rw [if_neg (by omega), ih (by omega) (by omega)]

theorem Slot.lane_congr {S T : Slot} (w : Width) (i : Nat)
    (h : ∀ k < w.bytes, Slot.byte S (i * w.bytes + k) = Slot.byte T (i * w.bytes + k)) :
    Slot.lane S w i = Slot.lane T w i := leValue_congr _ h

/-- A lane just replaced reads as the value put there. -/
theorem Slot.lane_setLane_same (S : Slot) (w : Width) (i : Nat) (v : BitVec w.bits)
    (h : (i + 1) * w.bytes ≤ S.length) : Slot.lane (Slot.setLane S w i v) w i = v := by
  conv_rhs => rw [← leValue_leByte v]
  exact leValue_congr _ fun k hk =>
    Slot.byte_put S _ v _ k hk (by rw [Nat.add_mul, Nat.one_mul] at h; exact h)

/-- Replacing lane `i` changes only the bytes of lane `i`. -/
theorem Slot.byte_setLane_ne (S : Slot) (w : Width) (i : Nat) (v : BitVec w.bits) (k : Nat)
    (h : k < i * w.bytes ∨ (i + 1) * w.bytes ≤ k) :
    Slot.byte (Slot.setLane S w i v) k = Slot.byte S k :=
  Slot.byte_put_ne S _ v _ k (by rw [Nat.add_mul, Nat.one_mul] at h; exact h)

/-- Replacing lane `i` leaves every other lane of that width alone. -/
theorem Slot.lane_setLane_ne (S : Slot) (w : Width) {i j : Nat} (v : BitVec w.bits) (h : i ≠ j) :
    Slot.lane (Slot.setLane S w i v) w j = Slot.lane S w j := by
  refine Slot.lane_congr w j fun k hk => Slot.byte_setLane_ne S w i v _ ?_
  rcases Nat.lt_or_gt_of_ne h with hlt | hgt
  · right; calc (i + 1) * w.bytes ≤ j * w.bytes := Nat.mul_le_mul_right _ hlt
      _ ≤ _ := Nat.le_add_right _ _
  · left; calc j * w.bytes + k < j * w.bytes + w.bytes := by omega
      _ = (j + 1) * w.bytes := by rw [Nat.add_mul, Nat.one_mul]
      _ ≤ i * w.bytes := Nat.mul_le_mul_right _ hgt

/-- The bytes of a slot from byte `n` on are not freed. -/
theorem Slot.byte_free_ge (S : Slot) (d n k : Nat) (h : n ≤ k) : Slot.byte (Slot.free S d n) k = Slot.byte S k := by
  simp only [Slot.byte, Slot.free, List.getD_eq_getElem?_getD, List.getElem?_mapIdx]
  cases S[k]? with
  | none => rfl
  | some b => simp [show ¬ k < n by omega]

end Sys2Proof.Machine
end

