-- ==== Sys2Proof/Laws/State.lean ====
section
/-! SUPPORT. One lemma per field per update of the state, true by rfl, so that no later proof unfolds a record
update. -/

namespace Sys2Proof.Machine

section
variable (s : State)

/-! ### respond -/

@[simp] theorem respond_params (d : DWord) : (s.respond d).params = s.params := rfl
@[simp] theorem respond_acc (d : DWord) : (s.respond d).acc = s.acc := rfl
@[simp] theorem respond_bbuf (d : DWord) : (s.respond d).bbuf = s.bbuf := rfl
@[simp] theorem respond_wbs (d : DWord) : (s.respond d).wbs = s.wbs := rfl
@[simp] theorem respond_scal (d : DWord) : (s.respond d).scal = s.scal := rfl
@[simp] theorem respond_vl (d : DWord) : (s.respond d).vl = s.vl := rfl
@[simp] theorem respond_vsew (d : DWord) : (s.respond d).vsew = s.vsew := rfl
@[simp] theorem respond_vgrp (d : DWord) : (s.respond d).vgrp = s.vgrp := rfl
@[simp] theorem respond_vlvalid (d : DWord) : (s.respond d).vlvalid = s.vlvalid := rfl
@[simp] theorem respond_cur (d : DWord) : (s.respond d).cur = s.cur := rfl
@[simp] theorem respond_rbf (d : DWord) : (s.respond d).rbf = s.rbf := rfl
@[simp] theorem respond_fault (d : DWord) : (s.respond d).fault = s.fault := rfl
@[simp] theorem respond_cause (d : DWord) : (s.respond d).cause = s.cause := rfl
@[simp] theorem respond_fcmd (d : DWord) : (s.respond d).fcmd = s.fcmd := rfl
@[simp] theorem respond_faddr (d : DWord) : (s.respond d).faddr = s.faddr := rfl
@[simp] theorem respond_fmt (d : DWord) : (s.respond d).fmt = s.fmt := rfl
@[simp] theorem respond_cbase (d : DWord) : (s.respond d).cbase = s.cbase := rfl
@[simp] theorem respond_abase (d : DWord) : (s.respond d).abase = s.abase := rfl
@[simp] theorem respond_bbase (d : DWord) : (s.respond d).bbase = s.bbase := rfl
@[simp] theorem respond_dimM (d : DWord) : (s.respond d).dimM = s.dimM := rfl
@[simp] theorem respond_dimN (d : DWord) : (s.respond d).dimN = s.dimN := rfl
@[simp] theorem respond_dimP (d : DWord) : (s.respond d).dimP = s.dimP := rfl
@[simp] theorem respond_mStart (d : DWord) : (s.respond d).mStart = s.mStart := rfl
@[simp] theorem respond_mEnd (d : DWord) : (s.respond d).mEnd = s.mEnd := rfl
@[simp] theorem respond_pStart (d : DWord) : (s.respond d).pStart = s.pStart := rfl
@[simp] theorem respond_pEnd (d : DWord) : (s.respond d).pEnd = s.pEnd := rfl
@[simp] theorem respond_pCur (d : DWord) : (s.respond d).pCur = s.pCur := rfl
@[simp] theorem respond_mCur (d : DWord) : (s.respond d).mCur = s.mCur := rfl
@[simp] theorem respond_nCur (d : DWord) : (s.respond d).nCur = s.nCur := rfl
@[simp] theorem respond_mem (d : DWord) : (s.respond d).mem = s.mem := rfl
@[simp] theorem respond_port (d : DWord) : (s.respond d).port = s.port := rfl
@[simp] theorem respond_inputs (d : DWord) : (s.respond d).inputs = s.inputs := rfl
@[simp] theorem respond_responses (d : DWord) : (s.respond d).responses = { data := d, fault := false } :: s.responses := rfl
@[simp] theorem respond_trace (d : DWord) : (s.respond d).trace = s.trace := rfl
@[simp] theorem respond_draws (d : DWord) : (s.respond d).draws = s.draws := rfl

/-! ### refuse -/

@[simp] theorem refuse_params : (s.refuse).params = s.params := rfl
@[simp] theorem refuse_acc : (s.refuse).acc = s.acc := rfl
@[simp] theorem refuse_bbuf : (s.refuse).bbuf = s.bbuf := rfl
@[simp] theorem refuse_wbs : (s.refuse).wbs = s.wbs := rfl
@[simp] theorem refuse_scal : (s.refuse).scal = s.scal := rfl
@[simp] theorem refuse_vl : (s.refuse).vl = s.vl := rfl
@[simp] theorem refuse_vsew : (s.refuse).vsew = s.vsew := rfl
@[simp] theorem refuse_vgrp : (s.refuse).vgrp = s.vgrp := rfl
@[simp] theorem refuse_vlvalid : (s.refuse).vlvalid = s.vlvalid := rfl
@[simp] theorem refuse_cur : (s.refuse).cur = s.cur := rfl
@[simp] theorem refuse_rbf : (s.refuse).rbf = s.rbf := rfl
@[simp] theorem refuse_fault : (s.refuse).fault = s.fault := rfl
@[simp] theorem refuse_cause : (s.refuse).cause = s.cause := rfl
@[simp] theorem refuse_fcmd : (s.refuse).fcmd = s.fcmd := rfl
@[simp] theorem refuse_faddr : (s.refuse).faddr = s.faddr := rfl
@[simp] theorem refuse_fmt : (s.refuse).fmt = s.fmt := rfl
@[simp] theorem refuse_cbase : (s.refuse).cbase = s.cbase := rfl
@[simp] theorem refuse_abase : (s.refuse).abase = s.abase := rfl
@[simp] theorem refuse_bbase : (s.refuse).bbase = s.bbase := rfl
@[simp] theorem refuse_dimM : (s.refuse).dimM = s.dimM := rfl
@[simp] theorem refuse_dimN : (s.refuse).dimN = s.dimN := rfl
@[simp] theorem refuse_dimP : (s.refuse).dimP = s.dimP := rfl
@[simp] theorem refuse_mStart : (s.refuse).mStart = s.mStart := rfl
@[simp] theorem refuse_mEnd : (s.refuse).mEnd = s.mEnd := rfl
@[simp] theorem refuse_pStart : (s.refuse).pStart = s.pStart := rfl
@[simp] theorem refuse_pEnd : (s.refuse).pEnd = s.pEnd := rfl
@[simp] theorem refuse_pCur : (s.refuse).pCur = s.pCur := rfl
@[simp] theorem refuse_mCur : (s.refuse).mCur = s.mCur := rfl
@[simp] theorem refuse_nCur : (s.refuse).nCur = s.nCur := rfl
@[simp] theorem refuse_mem : (s.refuse).mem = s.mem := rfl
@[simp] theorem refuse_port : (s.refuse).port = s.port := rfl
@[simp] theorem refuse_inputs : (s.refuse).inputs = s.inputs := rfl
@[simp] theorem refuse_responses : (s.refuse).responses = { data := 0, fault := true } :: s.responses := rfl
@[simp] theorem refuse_trace : (s.refuse).trace = s.trace := rfl
@[simp] theorem refuse_draws : (s.refuse).draws = s.draws := rfl

/-! ### logRequest -/

@[simp] theorem logRequest_params (r : Request) : (s.logRequest r).params = s.params := rfl
@[simp] theorem logRequest_acc (r : Request) : (s.logRequest r).acc = s.acc := rfl
@[simp] theorem logRequest_bbuf (r : Request) : (s.logRequest r).bbuf = s.bbuf := rfl
@[simp] theorem logRequest_wbs (r : Request) : (s.logRequest r).wbs = s.wbs := rfl
@[simp] theorem logRequest_scal (r : Request) : (s.logRequest r).scal = s.scal := rfl
@[simp] theorem logRequest_vl (r : Request) : (s.logRequest r).vl = s.vl := rfl
@[simp] theorem logRequest_vsew (r : Request) : (s.logRequest r).vsew = s.vsew := rfl
@[simp] theorem logRequest_vgrp (r : Request) : (s.logRequest r).vgrp = s.vgrp := rfl
@[simp] theorem logRequest_vlvalid (r : Request) : (s.logRequest r).vlvalid = s.vlvalid := rfl
@[simp] theorem logRequest_cur (r : Request) : (s.logRequest r).cur = s.cur := rfl
@[simp] theorem logRequest_rbf (r : Request) : (s.logRequest r).rbf = s.rbf := rfl
@[simp] theorem logRequest_fault (r : Request) : (s.logRequest r).fault = s.fault := rfl
@[simp] theorem logRequest_cause (r : Request) : (s.logRequest r).cause = s.cause := rfl
@[simp] theorem logRequest_fcmd (r : Request) : (s.logRequest r).fcmd = s.fcmd := rfl
@[simp] theorem logRequest_faddr (r : Request) : (s.logRequest r).faddr = s.faddr := rfl
@[simp] theorem logRequest_fmt (r : Request) : (s.logRequest r).fmt = s.fmt := rfl
@[simp] theorem logRequest_cbase (r : Request) : (s.logRequest r).cbase = s.cbase := rfl
@[simp] theorem logRequest_abase (r : Request) : (s.logRequest r).abase = s.abase := rfl
@[simp] theorem logRequest_bbase (r : Request) : (s.logRequest r).bbase = s.bbase := rfl
@[simp] theorem logRequest_dimM (r : Request) : (s.logRequest r).dimM = s.dimM := rfl
@[simp] theorem logRequest_dimN (r : Request) : (s.logRequest r).dimN = s.dimN := rfl
@[simp] theorem logRequest_dimP (r : Request) : (s.logRequest r).dimP = s.dimP := rfl
@[simp] theorem logRequest_mStart (r : Request) : (s.logRequest r).mStart = s.mStart := rfl
@[simp] theorem logRequest_mEnd (r : Request) : (s.logRequest r).mEnd = s.mEnd := rfl
@[simp] theorem logRequest_pStart (r : Request) : (s.logRequest r).pStart = s.pStart := rfl
@[simp] theorem logRequest_pEnd (r : Request) : (s.logRequest r).pEnd = s.pEnd := rfl
@[simp] theorem logRequest_pCur (r : Request) : (s.logRequest r).pCur = s.pCur := rfl
@[simp] theorem logRequest_mCur (r : Request) : (s.logRequest r).mCur = s.mCur := rfl
@[simp] theorem logRequest_nCur (r : Request) : (s.logRequest r).nCur = s.nCur := rfl
@[simp] theorem logRequest_mem (r : Request) : (s.logRequest r).mem = s.mem := rfl
@[simp] theorem logRequest_port (r : Request) : (s.logRequest r).port = s.port := rfl
@[simp] theorem logRequest_inputs (r : Request) : (s.logRequest r).inputs = s.inputs := rfl
@[simp] theorem logRequest_responses (r : Request) : (s.logRequest r).responses = s.responses := rfl
@[simp] theorem logRequest_trace (r : Request) : (s.logRequest r).trace = r :: s.trace := rfl
@[simp] theorem logRequest_draws (r : Request) : (s.logRequest r).draws = s.draws := rfl

/-! ### setAccRow -/

@[simp] theorem setAccRow_params (r : BitVec 2) (x : LanePair) : (s.setAccRow r x).params = s.params := rfl
@[simp] theorem setAccRow_acc (r : BitVec 2) (x : LanePair) : (s.setAccRow r x).acc = s.acc.set r.toNat x r.isLt := rfl
@[simp] theorem setAccRow_bbuf (r : BitVec 2) (x : LanePair) : (s.setAccRow r x).bbuf = s.bbuf := rfl
@[simp] theorem setAccRow_wbs (r : BitVec 2) (x : LanePair) : (s.setAccRow r x).wbs = s.wbs := rfl
@[simp] theorem setAccRow_scal (r : BitVec 2) (x : LanePair) : (s.setAccRow r x).scal = s.scal := rfl
@[simp] theorem setAccRow_vl (r : BitVec 2) (x : LanePair) : (s.setAccRow r x).vl = s.vl := rfl
@[simp] theorem setAccRow_vsew (r : BitVec 2) (x : LanePair) : (s.setAccRow r x).vsew = s.vsew := rfl
@[simp] theorem setAccRow_vgrp (r : BitVec 2) (x : LanePair) : (s.setAccRow r x).vgrp = s.vgrp := rfl
@[simp] theorem setAccRow_vlvalid (r : BitVec 2) (x : LanePair) : (s.setAccRow r x).vlvalid = s.vlvalid := rfl
@[simp] theorem setAccRow_cur (r : BitVec 2) (x : LanePair) : (s.setAccRow r x).cur = s.cur := rfl
@[simp] theorem setAccRow_rbf (r : BitVec 2) (x : LanePair) : (s.setAccRow r x).rbf = s.rbf := rfl
@[simp] theorem setAccRow_fault (r : BitVec 2) (x : LanePair) : (s.setAccRow r x).fault = s.fault := rfl
@[simp] theorem setAccRow_cause (r : BitVec 2) (x : LanePair) : (s.setAccRow r x).cause = s.cause := rfl
@[simp] theorem setAccRow_fcmd (r : BitVec 2) (x : LanePair) : (s.setAccRow r x).fcmd = s.fcmd := rfl
@[simp] theorem setAccRow_faddr (r : BitVec 2) (x : LanePair) : (s.setAccRow r x).faddr = s.faddr := rfl
@[simp] theorem setAccRow_fmt (r : BitVec 2) (x : LanePair) : (s.setAccRow r x).fmt = s.fmt := rfl
@[simp] theorem setAccRow_cbase (r : BitVec 2) (x : LanePair) : (s.setAccRow r x).cbase = s.cbase := rfl
@[simp] theorem setAccRow_abase (r : BitVec 2) (x : LanePair) : (s.setAccRow r x).abase = s.abase := rfl
@[simp] theorem setAccRow_bbase (r : BitVec 2) (x : LanePair) : (s.setAccRow r x).bbase = s.bbase := rfl
@[simp] theorem setAccRow_dimM (r : BitVec 2) (x : LanePair) : (s.setAccRow r x).dimM = s.dimM := rfl
@[simp] theorem setAccRow_dimN (r : BitVec 2) (x : LanePair) : (s.setAccRow r x).dimN = s.dimN := rfl
@[simp] theorem setAccRow_dimP (r : BitVec 2) (x : LanePair) : (s.setAccRow r x).dimP = s.dimP := rfl
@[simp] theorem setAccRow_mStart (r : BitVec 2) (x : LanePair) : (s.setAccRow r x).mStart = s.mStart := rfl
@[simp] theorem setAccRow_mEnd (r : BitVec 2) (x : LanePair) : (s.setAccRow r x).mEnd = s.mEnd := rfl
@[simp] theorem setAccRow_pStart (r : BitVec 2) (x : LanePair) : (s.setAccRow r x).pStart = s.pStart := rfl
@[simp] theorem setAccRow_pEnd (r : BitVec 2) (x : LanePair) : (s.setAccRow r x).pEnd = s.pEnd := rfl
@[simp] theorem setAccRow_pCur (r : BitVec 2) (x : LanePair) : (s.setAccRow r x).pCur = s.pCur := rfl
@[simp] theorem setAccRow_mCur (r : BitVec 2) (x : LanePair) : (s.setAccRow r x).mCur = s.mCur := rfl
@[simp] theorem setAccRow_nCur (r : BitVec 2) (x : LanePair) : (s.setAccRow r x).nCur = s.nCur := rfl
@[simp] theorem setAccRow_mem (r : BitVec 2) (x : LanePair) : (s.setAccRow r x).mem = s.mem := rfl
@[simp] theorem setAccRow_port (r : BitVec 2) (x : LanePair) : (s.setAccRow r x).port = s.port := rfl
@[simp] theorem setAccRow_inputs (r : BitVec 2) (x : LanePair) : (s.setAccRow r x).inputs = s.inputs := rfl
@[simp] theorem setAccRow_responses (r : BitVec 2) (x : LanePair) : (s.setAccRow r x).responses = s.responses := rfl
@[simp] theorem setAccRow_trace (r : BitVec 2) (x : LanePair) : (s.setAccRow r x).trace = s.trace := rfl
@[simp] theorem setAccRow_draws (r : BitVec 2) (x : LanePair) : (s.setAccRow r x).draws = s.draws := rfl

/-! ### setScalRow -/

@[simp] theorem setScalRow_params (r : BitVec 2) (x : Coefficient) : (s.setScalRow r x).params = s.params := rfl
@[simp] theorem setScalRow_acc (r : BitVec 2) (x : Coefficient) : (s.setScalRow r x).acc = s.acc := rfl
@[simp] theorem setScalRow_bbuf (r : BitVec 2) (x : Coefficient) : (s.setScalRow r x).bbuf = s.bbuf := rfl
@[simp] theorem setScalRow_wbs (r : BitVec 2) (x : Coefficient) : (s.setScalRow r x).wbs = s.wbs := rfl
@[simp] theorem setScalRow_scal (r : BitVec 2) (x : Coefficient) : (s.setScalRow r x).scal = s.scal.set r.toNat x r.isLt := rfl
@[simp] theorem setScalRow_vl (r : BitVec 2) (x : Coefficient) : (s.setScalRow r x).vl = s.vl := rfl
@[simp] theorem setScalRow_vsew (r : BitVec 2) (x : Coefficient) : (s.setScalRow r x).vsew = s.vsew := rfl
@[simp] theorem setScalRow_vgrp (r : BitVec 2) (x : Coefficient) : (s.setScalRow r x).vgrp = s.vgrp := rfl
@[simp] theorem setScalRow_vlvalid (r : BitVec 2) (x : Coefficient) : (s.setScalRow r x).vlvalid = s.vlvalid := rfl
@[simp] theorem setScalRow_cur (r : BitVec 2) (x : Coefficient) : (s.setScalRow r x).cur = s.cur := rfl
@[simp] theorem setScalRow_rbf (r : BitVec 2) (x : Coefficient) : (s.setScalRow r x).rbf = s.rbf := rfl
@[simp] theorem setScalRow_fault (r : BitVec 2) (x : Coefficient) : (s.setScalRow r x).fault = s.fault := rfl
@[simp] theorem setScalRow_cause (r : BitVec 2) (x : Coefficient) : (s.setScalRow r x).cause = s.cause := rfl
@[simp] theorem setScalRow_fcmd (r : BitVec 2) (x : Coefficient) : (s.setScalRow r x).fcmd = s.fcmd := rfl
@[simp] theorem setScalRow_faddr (r : BitVec 2) (x : Coefficient) : (s.setScalRow r x).faddr = s.faddr := rfl
@[simp] theorem setScalRow_fmt (r : BitVec 2) (x : Coefficient) : (s.setScalRow r x).fmt = s.fmt := rfl
@[simp] theorem setScalRow_cbase (r : BitVec 2) (x : Coefficient) : (s.setScalRow r x).cbase = s.cbase := rfl
@[simp] theorem setScalRow_abase (r : BitVec 2) (x : Coefficient) : (s.setScalRow r x).abase = s.abase := rfl
@[simp] theorem setScalRow_bbase (r : BitVec 2) (x : Coefficient) : (s.setScalRow r x).bbase = s.bbase := rfl
@[simp] theorem setScalRow_dimM (r : BitVec 2) (x : Coefficient) : (s.setScalRow r x).dimM = s.dimM := rfl
@[simp] theorem setScalRow_dimN (r : BitVec 2) (x : Coefficient) : (s.setScalRow r x).dimN = s.dimN := rfl
@[simp] theorem setScalRow_dimP (r : BitVec 2) (x : Coefficient) : (s.setScalRow r x).dimP = s.dimP := rfl
@[simp] theorem setScalRow_mStart (r : BitVec 2) (x : Coefficient) : (s.setScalRow r x).mStart = s.mStart := rfl
@[simp] theorem setScalRow_mEnd (r : BitVec 2) (x : Coefficient) : (s.setScalRow r x).mEnd = s.mEnd := rfl
@[simp] theorem setScalRow_pStart (r : BitVec 2) (x : Coefficient) : (s.setScalRow r x).pStart = s.pStart := rfl
@[simp] theorem setScalRow_pEnd (r : BitVec 2) (x : Coefficient) : (s.setScalRow r x).pEnd = s.pEnd := rfl
@[simp] theorem setScalRow_pCur (r : BitVec 2) (x : Coefficient) : (s.setScalRow r x).pCur = s.pCur := rfl
@[simp] theorem setScalRow_mCur (r : BitVec 2) (x : Coefficient) : (s.setScalRow r x).mCur = s.mCur := rfl
@[simp] theorem setScalRow_nCur (r : BitVec 2) (x : Coefficient) : (s.setScalRow r x).nCur = s.nCur := rfl
@[simp] theorem setScalRow_mem (r : BitVec 2) (x : Coefficient) : (s.setScalRow r x).mem = s.mem := rfl
@[simp] theorem setScalRow_port (r : BitVec 2) (x : Coefficient) : (s.setScalRow r x).port = s.port := rfl
@[simp] theorem setScalRow_inputs (r : BitVec 2) (x : Coefficient) : (s.setScalRow r x).inputs = s.inputs := rfl
@[simp] theorem setScalRow_responses (r : BitVec 2) (x : Coefficient) : (s.setScalRow r x).responses = s.responses := rfl
@[simp] theorem setScalRow_trace (r : BitVec 2) (x : Coefficient) : (s.setScalRow r x).trace = s.trace := rfl
@[simp] theorem setScalRow_draws (r : BitVec 2) (x : Coefficient) : (s.setScalRow r x).draws = s.draws := rfl

/-! ### setSlot -/

@[simp] theorem setSlot_params (n : SlotName) (x : LanePair) : (s.setSlot n x).params = s.params := by cases n <;> rfl
@[simp] theorem setSlot_acc (n : SlotName) (x : LanePair) : (s.setSlot n x).acc = s.acc := by cases n <;> rfl
@[simp] theorem setSlot_scal (n : SlotName) (x : LanePair) : (s.setSlot n x).scal = s.scal := by cases n <;> rfl
@[simp] theorem setSlot_vl (n : SlotName) (x : LanePair) : (s.setSlot n x).vl = s.vl := by cases n <;> rfl
@[simp] theorem setSlot_vsew (n : SlotName) (x : LanePair) : (s.setSlot n x).vsew = s.vsew := by cases n <;> rfl
@[simp] theorem setSlot_vgrp (n : SlotName) (x : LanePair) : (s.setSlot n x).vgrp = s.vgrp := by cases n <;> rfl
@[simp] theorem setSlot_vlvalid (n : SlotName) (x : LanePair) : (s.setSlot n x).vlvalid = s.vlvalid := by cases n <;> rfl
@[simp] theorem setSlot_cur (n : SlotName) (x : LanePair) : (s.setSlot n x).cur = s.cur := by cases n <;> rfl
@[simp] theorem setSlot_rbf (n : SlotName) (x : LanePair) : (s.setSlot n x).rbf = s.rbf := by cases n <;> rfl
@[simp] theorem setSlot_fault (n : SlotName) (x : LanePair) : (s.setSlot n x).fault = s.fault := by cases n <;> rfl
@[simp] theorem setSlot_cause (n : SlotName) (x : LanePair) : (s.setSlot n x).cause = s.cause := by cases n <;> rfl
@[simp] theorem setSlot_fcmd (n : SlotName) (x : LanePair) : (s.setSlot n x).fcmd = s.fcmd := by cases n <;> rfl
@[simp] theorem setSlot_faddr (n : SlotName) (x : LanePair) : (s.setSlot n x).faddr = s.faddr := by cases n <;> rfl
@[simp] theorem setSlot_fmt (n : SlotName) (x : LanePair) : (s.setSlot n x).fmt = s.fmt := by cases n <;> rfl
@[simp] theorem setSlot_cbase (n : SlotName) (x : LanePair) : (s.setSlot n x).cbase = s.cbase := by cases n <;> rfl
@[simp] theorem setSlot_abase (n : SlotName) (x : LanePair) : (s.setSlot n x).abase = s.abase := by cases n <;> rfl
@[simp] theorem setSlot_bbase (n : SlotName) (x : LanePair) : (s.setSlot n x).bbase = s.bbase := by cases n <;> rfl
@[simp] theorem setSlot_dimM (n : SlotName) (x : LanePair) : (s.setSlot n x).dimM = s.dimM := by cases n <;> rfl
@[simp] theorem setSlot_dimN (n : SlotName) (x : LanePair) : (s.setSlot n x).dimN = s.dimN := by cases n <;> rfl
@[simp] theorem setSlot_dimP (n : SlotName) (x : LanePair) : (s.setSlot n x).dimP = s.dimP := by cases n <;> rfl
@[simp] theorem setSlot_mStart (n : SlotName) (x : LanePair) : (s.setSlot n x).mStart = s.mStart := by cases n <;> rfl
@[simp] theorem setSlot_mEnd (n : SlotName) (x : LanePair) : (s.setSlot n x).mEnd = s.mEnd := by cases n <;> rfl
@[simp] theorem setSlot_pStart (n : SlotName) (x : LanePair) : (s.setSlot n x).pStart = s.pStart := by cases n <;> rfl
@[simp] theorem setSlot_pEnd (n : SlotName) (x : LanePair) : (s.setSlot n x).pEnd = s.pEnd := by cases n <;> rfl
@[simp] theorem setSlot_pCur (n : SlotName) (x : LanePair) : (s.setSlot n x).pCur = s.pCur := by cases n <;> rfl
@[simp] theorem setSlot_mCur (n : SlotName) (x : LanePair) : (s.setSlot n x).mCur = s.mCur := by cases n <;> rfl
@[simp] theorem setSlot_nCur (n : SlotName) (x : LanePair) : (s.setSlot n x).nCur = s.nCur := by cases n <;> rfl
@[simp] theorem setSlot_mem (n : SlotName) (x : LanePair) : (s.setSlot n x).mem = s.mem := by cases n <;> rfl
@[simp] theorem setSlot_port (n : SlotName) (x : LanePair) : (s.setSlot n x).port = s.port := by cases n <;> rfl
@[simp] theorem setSlot_inputs (n : SlotName) (x : LanePair) : (s.setSlot n x).inputs = s.inputs := by cases n <;> rfl
@[simp] theorem setSlot_responses (n : SlotName) (x : LanePair) : (s.setSlot n x).responses = s.responses := by cases n <;> rfl
@[simp] theorem setSlot_trace (n : SlotName) (x : LanePair) : (s.setSlot n x).trace = s.trace := by cases n <;> rfl
@[simp] theorem setSlot_draws (n : SlotName) (x : LanePair) : (s.setSlot n x).draws = s.draws := by cases n <;> rfl

/-! ### negotiate -/

@[simp] theorem negotiate_params (rem : Nat) (ew grp : BitVec 2) : (s.negotiate rem ew grp).params = s.params := rfl
@[simp] theorem negotiate_acc (rem : Nat) (ew grp : BitVec 2) : (s.negotiate rem ew grp).acc = s.acc := rfl
@[simp] theorem negotiate_bbuf (rem : Nat) (ew grp : BitVec 2) : (s.negotiate rem ew grp).bbuf = s.bbuf := rfl
@[simp] theorem negotiate_wbs (rem : Nat) (ew grp : BitVec 2) : (s.negotiate rem ew grp).wbs = s.wbs := rfl
@[simp] theorem negotiate_scal (rem : Nat) (ew grp : BitVec 2) : (s.negotiate rem ew grp).scal = s.scal := rfl
@[simp] theorem negotiate_vl (rem : Nat) (ew grp : BitVec 2) : (s.negotiate rem ew grp).vl = BitVec.ofNat 32 (grant s.params rem ew grp) := rfl
@[simp] theorem negotiate_vsew (rem : Nat) (ew grp : BitVec 2) : (s.negotiate rem ew grp).vsew = ew := rfl
@[simp] theorem negotiate_vgrp (rem : Nat) (ew grp : BitVec 2) : (s.negotiate rem ew grp).vgrp = grp := rfl
@[simp] theorem negotiate_vlvalid (rem : Nat) (ew grp : BitVec 2) : (s.negotiate rem ew grp).vlvalid = true := rfl
@[simp] theorem negotiate_cur (rem : Nat) (ew grp : BitVec 2) : (s.negotiate rem ew grp).cur = s.cur := rfl
@[simp] theorem negotiate_rbf (rem : Nat) (ew grp : BitVec 2) : (s.negotiate rem ew grp).rbf = s.rbf := rfl
@[simp] theorem negotiate_fault (rem : Nat) (ew grp : BitVec 2) : (s.negotiate rem ew grp).fault = s.fault := rfl
@[simp] theorem negotiate_cause (rem : Nat) (ew grp : BitVec 2) : (s.negotiate rem ew grp).cause = s.cause := rfl
@[simp] theorem negotiate_fcmd (rem : Nat) (ew grp : BitVec 2) : (s.negotiate rem ew grp).fcmd = s.fcmd := rfl
@[simp] theorem negotiate_faddr (rem : Nat) (ew grp : BitVec 2) : (s.negotiate rem ew grp).faddr = s.faddr := rfl
@[simp] theorem negotiate_fmt (rem : Nat) (ew grp : BitVec 2) : (s.negotiate rem ew grp).fmt = s.fmt := rfl
@[simp] theorem negotiate_cbase (rem : Nat) (ew grp : BitVec 2) : (s.negotiate rem ew grp).cbase = s.cbase := rfl
@[simp] theorem negotiate_abase (rem : Nat) (ew grp : BitVec 2) : (s.negotiate rem ew grp).abase = s.abase := rfl
@[simp] theorem negotiate_bbase (rem : Nat) (ew grp : BitVec 2) : (s.negotiate rem ew grp).bbase = s.bbase := rfl
@[simp] theorem negotiate_dimM (rem : Nat) (ew grp : BitVec 2) : (s.negotiate rem ew grp).dimM = s.dimM := rfl
@[simp] theorem negotiate_dimN (rem : Nat) (ew grp : BitVec 2) : (s.negotiate rem ew grp).dimN = s.dimN := rfl
@[simp] theorem negotiate_dimP (rem : Nat) (ew grp : BitVec 2) : (s.negotiate rem ew grp).dimP = s.dimP := rfl
@[simp] theorem negotiate_mStart (rem : Nat) (ew grp : BitVec 2) : (s.negotiate rem ew grp).mStart = s.mStart := rfl
@[simp] theorem negotiate_mEnd (rem : Nat) (ew grp : BitVec 2) : (s.negotiate rem ew grp).mEnd = s.mEnd := rfl
@[simp] theorem negotiate_pStart (rem : Nat) (ew grp : BitVec 2) : (s.negotiate rem ew grp).pStart = s.pStart := rfl
@[simp] theorem negotiate_pEnd (rem : Nat) (ew grp : BitVec 2) : (s.negotiate rem ew grp).pEnd = s.pEnd := rfl
@[simp] theorem negotiate_pCur (rem : Nat) (ew grp : BitVec 2) : (s.negotiate rem ew grp).pCur = s.pCur := rfl
@[simp] theorem negotiate_mCur (rem : Nat) (ew grp : BitVec 2) : (s.negotiate rem ew grp).mCur = s.mCur := rfl
@[simp] theorem negotiate_nCur (rem : Nat) (ew grp : BitVec 2) : (s.negotiate rem ew grp).nCur = s.nCur := rfl
@[simp] theorem negotiate_mem (rem : Nat) (ew grp : BitVec 2) : (s.negotiate rem ew grp).mem = s.mem := rfl
@[simp] theorem negotiate_port (rem : Nat) (ew grp : BitVec 2) : (s.negotiate rem ew grp).port = s.port := rfl
@[simp] theorem negotiate_inputs (rem : Nat) (ew grp : BitVec 2) : (s.negotiate rem ew grp).inputs = s.inputs := rfl
@[simp] theorem negotiate_responses (rem : Nat) (ew grp : BitVec 2) : (s.negotiate rem ew grp).responses = s.responses := rfl
@[simp] theorem negotiate_trace (rem : Nat) (ew grp : BitVec 2) : (s.negotiate rem ew grp).trace = s.trace := rfl
@[simp] theorem negotiate_draws (rem : Nat) (ew grp : BitVec 2) : (s.negotiate rem ew grp).draws = s.draws := rfl

/-! ### softReset -/

@[simp] theorem softReset_params : (s.softReset).params = s.params := rfl
@[simp] theorem softReset_acc : (s.softReset).acc = s.acc := rfl
@[simp] theorem softReset_bbuf : (s.softReset).bbuf = s.bbuf := rfl
@[simp] theorem softReset_wbs : (s.softReset).wbs = s.wbs := rfl
@[simp] theorem softReset_scal : (s.softReset).scal = s.scal := rfl
@[simp] theorem softReset_vl : (s.softReset).vl = 0 := rfl
@[simp] theorem softReset_vsew : (s.softReset).vsew = 0 := rfl
@[simp] theorem softReset_vgrp : (s.softReset).vgrp = 0 := rfl
@[simp] theorem softReset_vlvalid : (s.softReset).vlvalid = false := rfl
@[simp] theorem softReset_cur : (s.softReset).cur = 0 := rfl
@[simp] theorem softReset_rbf : (s.softReset).rbf = false := rfl
@[simp] theorem softReset_fault : (s.softReset).fault = false := rfl
@[simp] theorem softReset_cause : (s.softReset).cause = .none := rfl
@[simp] theorem softReset_fcmd : (s.softReset).fcmd = 0 := rfl
@[simp] theorem softReset_faddr : (s.softReset).faddr = 0 := rfl
@[simp] theorem softReset_fmt : (s.softReset).fmt = 0 := rfl
@[simp] theorem softReset_cbase : (s.softReset).cbase = 0 := rfl
@[simp] theorem softReset_abase : (s.softReset).abase = 0 := rfl
@[simp] theorem softReset_bbase : (s.softReset).bbase = 0 := rfl
@[simp] theorem softReset_dimM : (s.softReset).dimM = 0 := rfl
@[simp] theorem softReset_dimN : (s.softReset).dimN = 0 := rfl
@[simp] theorem softReset_dimP : (s.softReset).dimP = 0 := rfl
@[simp] theorem softReset_mStart : (s.softReset).mStart = 0 := rfl
@[simp] theorem softReset_mEnd : (s.softReset).mEnd = 0 := rfl
@[simp] theorem softReset_pStart : (s.softReset).pStart = 0 := rfl
@[simp] theorem softReset_pEnd : (s.softReset).pEnd = 0 := rfl
@[simp] theorem softReset_pCur : (s.softReset).pCur = 0 := rfl
@[simp] theorem softReset_mCur : (s.softReset).mCur = 0 := rfl
@[simp] theorem softReset_nCur : (s.softReset).nCur = 0 := rfl
@[simp] theorem softReset_mem : (s.softReset).mem = s.mem := rfl
@[simp] theorem softReset_port : (s.softReset).port = s.port := rfl
@[simp] theorem softReset_inputs : (s.softReset).inputs = s.inputs := rfl
@[simp] theorem softReset_responses : (s.softReset).responses = s.responses := rfl
@[simp] theorem softReset_trace : (s.softReset).trace = s.trace := rfl
@[simp] theorem softReset_draws : (s.softReset).draws = s.draws := rfl

/-! ### advanceIndex -/

@[simp] theorem advanceIndex_params : (s.advanceIndex).params = s.params := rfl
@[simp] theorem advanceIndex_acc : (s.advanceIndex).acc = s.acc := rfl
@[simp] theorem advanceIndex_bbuf : (s.advanceIndex).bbuf = s.bbuf := rfl
@[simp] theorem advanceIndex_wbs : (s.advanceIndex).wbs = s.wbs := rfl
@[simp] theorem advanceIndex_scal : (s.advanceIndex).scal = s.scal := rfl
@[simp] theorem advanceIndex_vl : (s.advanceIndex).vl = s.vl := rfl
@[simp] theorem advanceIndex_vsew : (s.advanceIndex).vsew = s.vsew := rfl
@[simp] theorem advanceIndex_vgrp : (s.advanceIndex).vgrp = s.vgrp := rfl
@[simp] theorem advanceIndex_vlvalid : (s.advanceIndex).vlvalid = s.vlvalid := rfl
@[simp] theorem advanceIndex_cur : (s.advanceIndex).cur = 1 - s.cur := rfl
@[simp] theorem advanceIndex_rbf : (s.advanceIndex).rbf = s.rbf := rfl
@[simp] theorem advanceIndex_fault : (s.advanceIndex).fault = s.fault := rfl
@[simp] theorem advanceIndex_cause : (s.advanceIndex).cause = s.cause := rfl
@[simp] theorem advanceIndex_fcmd : (s.advanceIndex).fcmd = s.fcmd := rfl
@[simp] theorem advanceIndex_faddr : (s.advanceIndex).faddr = s.faddr := rfl
@[simp] theorem advanceIndex_fmt : (s.advanceIndex).fmt = s.fmt := rfl
@[simp] theorem advanceIndex_cbase : (s.advanceIndex).cbase = s.cbase := rfl
@[simp] theorem advanceIndex_abase : (s.advanceIndex).abase = s.abase := rfl
@[simp] theorem advanceIndex_bbase : (s.advanceIndex).bbase = s.bbase := rfl
@[simp] theorem advanceIndex_dimM : (s.advanceIndex).dimM = s.dimM := rfl
@[simp] theorem advanceIndex_dimN : (s.advanceIndex).dimN = s.dimN := rfl
@[simp] theorem advanceIndex_dimP : (s.advanceIndex).dimP = s.dimP := rfl
@[simp] theorem advanceIndex_mStart : (s.advanceIndex).mStart = s.mStart := rfl
@[simp] theorem advanceIndex_mEnd : (s.advanceIndex).mEnd = s.mEnd := rfl
@[simp] theorem advanceIndex_pStart : (s.advanceIndex).pStart = s.pStart := rfl
@[simp] theorem advanceIndex_pEnd : (s.advanceIndex).pEnd = s.pEnd := rfl
@[simp] theorem advanceIndex_pCur : (s.advanceIndex).pCur = s.pCur := rfl
@[simp] theorem advanceIndex_mCur : (s.advanceIndex).mCur = s.mCur := rfl
@[simp] theorem advanceIndex_nCur : (s.advanceIndex).nCur = s.nCur + 1 := rfl
@[simp] theorem advanceIndex_mem : (s.advanceIndex).mem = s.mem := rfl
@[simp] theorem advanceIndex_port : (s.advanceIndex).port = s.port := rfl
@[simp] theorem advanceIndex_inputs : (s.advanceIndex).inputs = s.inputs := rfl
@[simp] theorem advanceIndex_responses : (s.advanceIndex).responses = s.responses := rfl
@[simp] theorem advanceIndex_trace : (s.advanceIndex).trace = s.trace := rfl
@[simp] theorem advanceIndex_draws : (s.advanceIndex).draws = s.draws := rfl

/-! ### fullRanges -/

@[simp] theorem fullRanges_params : (s.fullRanges).params = s.params := rfl
@[simp] theorem fullRanges_acc : (s.fullRanges).acc = s.acc := rfl
@[simp] theorem fullRanges_bbuf : (s.fullRanges).bbuf = s.bbuf := rfl
@[simp] theorem fullRanges_wbs : (s.fullRanges).wbs = s.wbs := rfl
@[simp] theorem fullRanges_scal : (s.fullRanges).scal = s.scal := rfl
@[simp] theorem fullRanges_vl : (s.fullRanges).vl = s.vl := rfl
@[simp] theorem fullRanges_vsew : (s.fullRanges).vsew = s.vsew := rfl
@[simp] theorem fullRanges_vgrp : (s.fullRanges).vgrp = s.vgrp := rfl
@[simp] theorem fullRanges_vlvalid : (s.fullRanges).vlvalid = s.vlvalid := rfl
@[simp] theorem fullRanges_cur : (s.fullRanges).cur = s.cur := rfl
@[simp] theorem fullRanges_rbf : (s.fullRanges).rbf = s.rbf := rfl
@[simp] theorem fullRanges_fault : (s.fullRanges).fault = s.fault := rfl
@[simp] theorem fullRanges_cause : (s.fullRanges).cause = s.cause := rfl
@[simp] theorem fullRanges_fcmd : (s.fullRanges).fcmd = s.fcmd := rfl
@[simp] theorem fullRanges_faddr : (s.fullRanges).faddr = s.faddr := rfl
@[simp] theorem fullRanges_fmt : (s.fullRanges).fmt = s.fmt := rfl
@[simp] theorem fullRanges_cbase : (s.fullRanges).cbase = s.cbase := rfl
@[simp] theorem fullRanges_abase : (s.fullRanges).abase = s.abase := rfl
@[simp] theorem fullRanges_bbase : (s.fullRanges).bbase = s.bbase := rfl
@[simp] theorem fullRanges_dimM : (s.fullRanges).dimM = s.dimM := rfl
@[simp] theorem fullRanges_dimN : (s.fullRanges).dimN = s.dimN := rfl
@[simp] theorem fullRanges_dimP : (s.fullRanges).dimP = s.dimP := rfl
@[simp] theorem fullRanges_mStart : (s.fullRanges).mStart = 0 := rfl
@[simp] theorem fullRanges_mEnd : (s.fullRanges).mEnd = s.dimM := rfl
@[simp] theorem fullRanges_pStart : (s.fullRanges).pStart = 0 := rfl
@[simp] theorem fullRanges_pEnd : (s.fullRanges).pEnd = s.dimP := rfl
@[simp] theorem fullRanges_pCur : (s.fullRanges).pCur = s.pCur := rfl
@[simp] theorem fullRanges_mCur : (s.fullRanges).mCur = s.mCur := rfl
@[simp] theorem fullRanges_nCur : (s.fullRanges).nCur = s.nCur := rfl
@[simp] theorem fullRanges_mem : (s.fullRanges).mem = s.mem := rfl
@[simp] theorem fullRanges_port : (s.fullRanges).port = s.port := rfl
@[simp] theorem fullRanges_inputs : (s.fullRanges).inputs = s.inputs := rfl
@[simp] theorem fullRanges_responses : (s.fullRanges).responses = s.responses := rfl
@[simp] theorem fullRanges_trace : (s.fullRanges).trace = s.trace := rfl
@[simp] theorem fullRanges_draws : (s.fullRanges).draws = s.draws := rfl

/-! ### freeScal -/

@[simp] theorem freeScal_params (r : BitVec 2) : (s.freeScal r).params = s.params := rfl
@[simp] theorem freeScal_acc (r : BitVec 2) : (s.freeScal r).acc = s.acc := rfl
@[simp] theorem freeScal_bbuf (r : BitVec 2) : (s.freeScal r).bbuf = s.bbuf := rfl
@[simp] theorem freeScal_wbs (r : BitVec 2) : (s.freeScal r).wbs = s.wbs := rfl
@[simp] theorem freeScal_vl (r : BitVec 2) : (s.freeScal r).vl = s.vl := rfl
@[simp] theorem freeScal_vsew (r : BitVec 2) : (s.freeScal r).vsew = s.vsew := rfl
@[simp] theorem freeScal_vgrp (r : BitVec 2) : (s.freeScal r).vgrp = s.vgrp := rfl
@[simp] theorem freeScal_vlvalid (r : BitVec 2) : (s.freeScal r).vlvalid = s.vlvalid := rfl
@[simp] theorem freeScal_cur (r : BitVec 2) : (s.freeScal r).cur = s.cur := rfl
@[simp] theorem freeScal_rbf (r : BitVec 2) : (s.freeScal r).rbf = s.rbf := rfl
@[simp] theorem freeScal_fault (r : BitVec 2) : (s.freeScal r).fault = s.fault := rfl
@[simp] theorem freeScal_cause (r : BitVec 2) : (s.freeScal r).cause = s.cause := rfl
@[simp] theorem freeScal_fcmd (r : BitVec 2) : (s.freeScal r).fcmd = s.fcmd := rfl
@[simp] theorem freeScal_faddr (r : BitVec 2) : (s.freeScal r).faddr = s.faddr := rfl
@[simp] theorem freeScal_fmt (r : BitVec 2) : (s.freeScal r).fmt = s.fmt := rfl
@[simp] theorem freeScal_cbase (r : BitVec 2) : (s.freeScal r).cbase = s.cbase := rfl
@[simp] theorem freeScal_abase (r : BitVec 2) : (s.freeScal r).abase = s.abase := rfl
@[simp] theorem freeScal_bbase (r : BitVec 2) : (s.freeScal r).bbase = s.bbase := rfl
@[simp] theorem freeScal_dimM (r : BitVec 2) : (s.freeScal r).dimM = s.dimM := rfl
@[simp] theorem freeScal_dimN (r : BitVec 2) : (s.freeScal r).dimN = s.dimN := rfl
@[simp] theorem freeScal_dimP (r : BitVec 2) : (s.freeScal r).dimP = s.dimP := rfl
@[simp] theorem freeScal_mStart (r : BitVec 2) : (s.freeScal r).mStart = s.mStart := rfl
@[simp] theorem freeScal_mEnd (r : BitVec 2) : (s.freeScal r).mEnd = s.mEnd := rfl
@[simp] theorem freeScal_pStart (r : BitVec 2) : (s.freeScal r).pStart = s.pStart := rfl
@[simp] theorem freeScal_pEnd (r : BitVec 2) : (s.freeScal r).pEnd = s.pEnd := rfl
@[simp] theorem freeScal_pCur (r : BitVec 2) : (s.freeScal r).pCur = s.pCur := rfl
@[simp] theorem freeScal_mCur (r : BitVec 2) : (s.freeScal r).mCur = s.mCur := rfl
@[simp] theorem freeScal_nCur (r : BitVec 2) : (s.freeScal r).nCur = s.nCur := rfl
@[simp] theorem freeScal_mem (r : BitVec 2) : (s.freeScal r).mem = s.mem := rfl
@[simp] theorem freeScal_port (r : BitVec 2) : (s.freeScal r).port = s.port := rfl
@[simp] theorem freeScal_inputs (r : BitVec 2) : (s.freeScal r).inputs = s.inputs := rfl
@[simp] theorem freeScal_responses (r : BitVec 2) : (s.freeScal r).responses = s.responses := rfl
@[simp] theorem freeScal_trace (r : BitVec 2) : (s.freeScal r).trace = s.trace := rfl
@[simp] theorem freeScal_draws (r : BitVec 2) : (s.freeScal r).draws = s.draws + 2 := rfl

/-! ### freeSlots -/

@[simp] theorem freeSlots_params : (s.freeSlots).params = s.params := rfl
@[simp] theorem freeSlots_vl : (s.freeSlots).vl = s.vl := rfl
@[simp] theorem freeSlots_vsew : (s.freeSlots).vsew = s.vsew := rfl
@[simp] theorem freeSlots_vgrp : (s.freeSlots).vgrp = s.vgrp := rfl
@[simp] theorem freeSlots_vlvalid : (s.freeSlots).vlvalid = s.vlvalid := rfl
@[simp] theorem freeSlots_cur : (s.freeSlots).cur = s.cur := rfl
@[simp] theorem freeSlots_rbf : (s.freeSlots).rbf = s.rbf := rfl
@[simp] theorem freeSlots_fault : (s.freeSlots).fault = s.fault := rfl
@[simp] theorem freeSlots_cause : (s.freeSlots).cause = s.cause := rfl
@[simp] theorem freeSlots_fcmd : (s.freeSlots).fcmd = s.fcmd := rfl
@[simp] theorem freeSlots_faddr : (s.freeSlots).faddr = s.faddr := rfl
@[simp] theorem freeSlots_fmt : (s.freeSlots).fmt = s.fmt := rfl
@[simp] theorem freeSlots_cbase : (s.freeSlots).cbase = s.cbase := rfl
@[simp] theorem freeSlots_abase : (s.freeSlots).abase = s.abase := rfl
@[simp] theorem freeSlots_bbase : (s.freeSlots).bbase = s.bbase := rfl
@[simp] theorem freeSlots_dimM : (s.freeSlots).dimM = s.dimM := rfl
@[simp] theorem freeSlots_dimN : (s.freeSlots).dimN = s.dimN := rfl
@[simp] theorem freeSlots_dimP : (s.freeSlots).dimP = s.dimP := rfl
@[simp] theorem freeSlots_mStart : (s.freeSlots).mStart = s.mStart := rfl
@[simp] theorem freeSlots_mEnd : (s.freeSlots).mEnd = s.mEnd := rfl
@[simp] theorem freeSlots_pStart : (s.freeSlots).pStart = s.pStart := rfl
@[simp] theorem freeSlots_pEnd : (s.freeSlots).pEnd = s.pEnd := rfl
@[simp] theorem freeSlots_pCur : (s.freeSlots).pCur = s.pCur := rfl
@[simp] theorem freeSlots_mCur : (s.freeSlots).mCur = s.mCur := rfl
@[simp] theorem freeSlots_nCur : (s.freeSlots).nCur = s.nCur := rfl
@[simp] theorem freeSlots_mem : (s.freeSlots).mem = s.mem := rfl
@[simp] theorem freeSlots_port : (s.freeSlots).port = s.port := rfl
@[simp] theorem freeSlots_inputs : (s.freeSlots).inputs = s.inputs := rfl
@[simp] theorem freeSlots_responses : (s.freeSlots).responses = s.responses := rfl
@[simp] theorem freeSlots_trace : (s.freeSlots).trace = s.trace := rfl
@[simp] theorem freeSlots_draws : (s.freeSlots).draws = s.draws + 22 := rfl

/-! ### freeTarget -/

@[simp] theorem freeTarget_params (f : Format) (n : SlotName) : (s.freeTarget f n).params = s.params := by cases n <;> rfl
@[simp] theorem freeTarget_acc (f : Format) (n : SlotName) : (s.freeTarget f n).acc = s.acc := by cases n <;> rfl
@[simp] theorem freeTarget_scal (f : Format) (n : SlotName) : (s.freeTarget f n).scal = s.scal := by cases n <;> rfl
@[simp] theorem freeTarget_vl (f : Format) (n : SlotName) : (s.freeTarget f n).vl = s.vl := by cases n <;> rfl
@[simp] theorem freeTarget_vsew (f : Format) (n : SlotName) : (s.freeTarget f n).vsew = s.vsew := by cases n <;> rfl
@[simp] theorem freeTarget_vgrp (f : Format) (n : SlotName) : (s.freeTarget f n).vgrp = s.vgrp := by cases n <;> rfl
@[simp] theorem freeTarget_vlvalid (f : Format) (n : SlotName) : (s.freeTarget f n).vlvalid = s.vlvalid := by cases n <;> rfl
@[simp] theorem freeTarget_cur (f : Format) (n : SlotName) : (s.freeTarget f n).cur = s.cur := by cases n <;> rfl
@[simp] theorem freeTarget_rbf (f : Format) (n : SlotName) : (s.freeTarget f n).rbf = s.rbf := by cases n <;> rfl
@[simp] theorem freeTarget_fault (f : Format) (n : SlotName) : (s.freeTarget f n).fault = s.fault := by cases n <;> rfl
@[simp] theorem freeTarget_cause (f : Format) (n : SlotName) : (s.freeTarget f n).cause = s.cause := by cases n <;> rfl
@[simp] theorem freeTarget_fcmd (f : Format) (n : SlotName) : (s.freeTarget f n).fcmd = s.fcmd := by cases n <;> rfl
@[simp] theorem freeTarget_faddr (f : Format) (n : SlotName) : (s.freeTarget f n).faddr = s.faddr := by cases n <;> rfl
@[simp] theorem freeTarget_fmt (f : Format) (n : SlotName) : (s.freeTarget f n).fmt = s.fmt := by cases n <;> rfl
@[simp] theorem freeTarget_cbase (f : Format) (n : SlotName) : (s.freeTarget f n).cbase = s.cbase := by cases n <;> rfl
@[simp] theorem freeTarget_abase (f : Format) (n : SlotName) : (s.freeTarget f n).abase = s.abase := by cases n <;> rfl
@[simp] theorem freeTarget_bbase (f : Format) (n : SlotName) : (s.freeTarget f n).bbase = s.bbase := by cases n <;> rfl
@[simp] theorem freeTarget_dimM (f : Format) (n : SlotName) : (s.freeTarget f n).dimM = s.dimM := by cases n <;> rfl
@[simp] theorem freeTarget_dimN (f : Format) (n : SlotName) : (s.freeTarget f n).dimN = s.dimN := by cases n <;> rfl
@[simp] theorem freeTarget_dimP (f : Format) (n : SlotName) : (s.freeTarget f n).dimP = s.dimP := by cases n <;> rfl
@[simp] theorem freeTarget_mStart (f : Format) (n : SlotName) : (s.freeTarget f n).mStart = s.mStart := by cases n <;> rfl
@[simp] theorem freeTarget_mEnd (f : Format) (n : SlotName) : (s.freeTarget f n).mEnd = s.mEnd := by cases n <;> rfl
@[simp] theorem freeTarget_pStart (f : Format) (n : SlotName) : (s.freeTarget f n).pStart = s.pStart := by cases n <;> rfl
@[simp] theorem freeTarget_pEnd (f : Format) (n : SlotName) : (s.freeTarget f n).pEnd = s.pEnd := by cases n <;> rfl
@[simp] theorem freeTarget_pCur (f : Format) (n : SlotName) : (s.freeTarget f n).pCur = s.pCur := by cases n <;> rfl
@[simp] theorem freeTarget_mCur (f : Format) (n : SlotName) : (s.freeTarget f n).mCur = s.mCur := by cases n <;> rfl
@[simp] theorem freeTarget_nCur (f : Format) (n : SlotName) : (s.freeTarget f n).nCur = s.nCur := by cases n <;> rfl
@[simp] theorem freeTarget_mem (f : Format) (n : SlotName) : (s.freeTarget f n).mem = s.mem := by cases n <;> rfl
@[simp] theorem freeTarget_port (f : Format) (n : SlotName) : (s.freeTarget f n).port = s.port := by cases n <;> rfl
@[simp] theorem freeTarget_inputs (f : Format) (n : SlotName) : (s.freeTarget f n).inputs = s.inputs := by cases n <;> rfl
@[simp] theorem freeTarget_responses (f : Format) (n : SlotName) : (s.freeTarget f n).responses = s.responses := by cases n <;> rfl
@[simp] theorem freeTarget_trace (f : Format) (n : SlotName) : (s.freeTarget f n).trace = s.trace := by cases n <;> rfl
@[simp] theorem freeTarget_draws (f : Format) (n : SlotName) : (s.freeTarget f n).draws = s.draws + 2 := by cases n <;> rfl

/-! ### cmac -/

@[simp] theorem cmac_params (f : Format) (r : BitVec 2) (b : BitVec 1) : (s.cmac f r b).params = s.params := rfl
@[simp] theorem cmac_bbuf (f : Format) (r : BitVec 2) (b : BitVec 1) : (s.cmac f r b).bbuf = s.bbuf := rfl
@[simp] theorem cmac_wbs (f : Format) (r : BitVec 2) (b : BitVec 1) : (s.cmac f r b).wbs = s.wbs := rfl
@[simp] theorem cmac_scal (f : Format) (r : BitVec 2) (b : BitVec 1) : (s.cmac f r b).scal = s.scal := rfl
@[simp] theorem cmac_vl (f : Format) (r : BitVec 2) (b : BitVec 1) : (s.cmac f r b).vl = s.vl := rfl
@[simp] theorem cmac_vsew (f : Format) (r : BitVec 2) (b : BitVec 1) : (s.cmac f r b).vsew = s.vsew := rfl
@[simp] theorem cmac_vgrp (f : Format) (r : BitVec 2) (b : BitVec 1) : (s.cmac f r b).vgrp = s.vgrp := rfl
@[simp] theorem cmac_vlvalid (f : Format) (r : BitVec 2) (b : BitVec 1) : (s.cmac f r b).vlvalid = s.vlvalid := rfl
@[simp] theorem cmac_cur (f : Format) (r : BitVec 2) (b : BitVec 1) : (s.cmac f r b).cur = s.cur := rfl
@[simp] theorem cmac_rbf (f : Format) (r : BitVec 2) (b : BitVec 1) : (s.cmac f r b).rbf = s.rbf := rfl
@[simp] theorem cmac_fault (f : Format) (r : BitVec 2) (b : BitVec 1) : (s.cmac f r b).fault = s.fault := rfl
@[simp] theorem cmac_cause (f : Format) (r : BitVec 2) (b : BitVec 1) : (s.cmac f r b).cause = s.cause := rfl
@[simp] theorem cmac_fcmd (f : Format) (r : BitVec 2) (b : BitVec 1) : (s.cmac f r b).fcmd = s.fcmd := rfl
@[simp] theorem cmac_faddr (f : Format) (r : BitVec 2) (b : BitVec 1) : (s.cmac f r b).faddr = s.faddr := rfl
@[simp] theorem cmac_fmt (f : Format) (r : BitVec 2) (b : BitVec 1) : (s.cmac f r b).fmt = s.fmt := rfl
@[simp] theorem cmac_cbase (f : Format) (r : BitVec 2) (b : BitVec 1) : (s.cmac f r b).cbase = s.cbase := rfl
@[simp] theorem cmac_abase (f : Format) (r : BitVec 2) (b : BitVec 1) : (s.cmac f r b).abase = s.abase := rfl
@[simp] theorem cmac_bbase (f : Format) (r : BitVec 2) (b : BitVec 1) : (s.cmac f r b).bbase = s.bbase := rfl
@[simp] theorem cmac_dimM (f : Format) (r : BitVec 2) (b : BitVec 1) : (s.cmac f r b).dimM = s.dimM := rfl
@[simp] theorem cmac_dimN (f : Format) (r : BitVec 2) (b : BitVec 1) : (s.cmac f r b).dimN = s.dimN := rfl
@[simp] theorem cmac_dimP (f : Format) (r : BitVec 2) (b : BitVec 1) : (s.cmac f r b).dimP = s.dimP := rfl
@[simp] theorem cmac_mStart (f : Format) (r : BitVec 2) (b : BitVec 1) : (s.cmac f r b).mStart = s.mStart := rfl
@[simp] theorem cmac_mEnd (f : Format) (r : BitVec 2) (b : BitVec 1) : (s.cmac f r b).mEnd = s.mEnd := rfl
@[simp] theorem cmac_pStart (f : Format) (r : BitVec 2) (b : BitVec 1) : (s.cmac f r b).pStart = s.pStart := rfl
@[simp] theorem cmac_pEnd (f : Format) (r : BitVec 2) (b : BitVec 1) : (s.cmac f r b).pEnd = s.pEnd := rfl
@[simp] theorem cmac_pCur (f : Format) (r : BitVec 2) (b : BitVec 1) : (s.cmac f r b).pCur = s.pCur := rfl
@[simp] theorem cmac_mCur (f : Format) (r : BitVec 2) (b : BitVec 1) : (s.cmac f r b).mCur = s.mCur := rfl
@[simp] theorem cmac_nCur (f : Format) (r : BitVec 2) (b : BitVec 1) : (s.cmac f r b).nCur = s.nCur := rfl
@[simp] theorem cmac_mem (f : Format) (r : BitVec 2) (b : BitVec 1) : (s.cmac f r b).mem = s.mem := rfl
@[simp] theorem cmac_port (f : Format) (r : BitVec 2) (b : BitVec 1) : (s.cmac f r b).port = s.port := rfl
@[simp] theorem cmac_inputs (f : Format) (r : BitVec 2) (b : BitVec 1) : (s.cmac f r b).inputs = s.inputs := rfl
@[simp] theorem cmac_responses (f : Format) (r : BitVec 2) (b : BitVec 1) : (s.cmac f r b).responses = s.responses := rfl
@[simp] theorem cmac_trace (f : Format) (r : BitVec 2) (b : BitVec 1) : (s.cmac f r b).trace = s.trace := rfl
@[simp] theorem cmac_draws (f : Format) (r : BitVec 2) (b : BitVec 1) : (s.cmac f r b).draws = s.draws := rfl

end

end Sys2Proof.Machine
end

