-- ==== Sys2Proof/Laws/Lanes.lean ====
section
/-! SUPPORT. What the lane operations write and what they leave alone, and the accessors of rows and slots
(spec/10_state.md R22, R28). -/

namespace Sys2Proof.Machine

/-! ### Rows and named slots -/

@[simp] theorem accRow_setAccRow_same (s : State) (r : BitVec 2) (x : LanePair) :
    (s.setAccRow r x).accRow r = x := by simp [State.accRow]

theorem accRow_setAccRow_ne (s : State) {r q : BitVec 2} (x : LanePair) (h : r ≠ q) :
    (s.setAccRow r x).accRow q = s.accRow q := by
  have : r.toNat ≠ q.toNat := fun e => h (BitVec.eq_of_toNat_eq e)
  simp [State.accRow, this]

@[simp] theorem scalRow_setScalRow_same (s : State) (r : BitVec 2) (x : Coefficient) :
    (s.setScalRow r x).scalRow r = x := by simp [State.scalRow]

theorem scalRow_setScalRow_ne (s : State) {r q : BitVec 2} (x : Coefficient) (h : r ≠ q) :
    (s.setScalRow r x).scalRow q = s.scalRow q := by
  have : r.toNat ≠ q.toNat := fun e => h (BitVec.eq_of_toNat_eq e)
  simp [State.scalRow, this]

@[simp] theorem slot_setSlot_same (s : State) (n : SlotName) (x : LanePair) : (s.setSlot n x).slot n = x := by
  cases n <;> simp [State.slot, State.setSlot]

theorem slot_setSlot_ne (s : State) {n m : SlotName} (x : LanePair) (h : n ≠ m) :
    (s.setSlot n x).slot m = s.slot m := by
  cases n with
  | wbs => cases m with
    | wbs => exact absurd rfl h
    | bbuf c => rfl
  | bbuf b => cases m with
    | wbs => rfl
    | bbuf c =>
      have : b.toNat ≠ c.toNat := fun e => h (by rw [BitVec.eq_of_toNat_eq e])
      simp [State.slot, State.setSlot, this]

@[simp] theorem setSlot_setSlot (s : State) (n : SlotName) (x y : LanePair) :
    (s.setSlot n x).setSlot n y = s.setSlot n y := by
  cases n <;> simp [State.setSlot]

@[simp] theorem setSlot_slot (s : State) (n : SlotName) : s.setSlot n (s.slot n) = s := by
  cases n <;> simp [State.setSlot, State.slot]

@[simp] theorem accRow_setSlot (s : State) (n : SlotName) (x : LanePair) (r : BitVec 2) :
    (s.setSlot n x).accRow r = s.accRow r := by simp [State.accRow]

@[simp] theorem scalRow_setSlot (s : State) (n : SlotName) (x : LanePair) (r : BitVec 2) :
    (s.setSlot n x).scalRow r = s.scalRow r := by simp [State.scalRow]

/-! ### Elements -/

@[simp] theorem setElement_length_re (x : LanePair) (w : Width) (i : Nat) (re im : BitVec w.bits) :
    (x.setElement w i re im).re.length = x.re.length := Slot.length_setLane _ _ _ _

@[simp] theorem setElement_length_im (x : LanePair) (w : Width) (i : Nat) (re im : BitVec w.bits) :
    (x.setElement w i re im).im.length = x.im.length := Slot.length_setLane _ _ _ _

section
variable (w : Width) (g : Nat → BitVec w.bits → BitVec w.bits → BitVec w.bits × BitVec w.bits)

@[simp] theorem updateElements_length_re (n : Nat) (x : LanePair) :
    (updateElements w g n x).re.length = x.re.length := by
  induction n with
  | zero => rfl
  | succ n ih => rw [updateElements, setElement_length_re, ih]

@[simp] theorem updateElements_length_im (n : Nat) (x : LanePair) :
    (updateElements w g n x).im.length = x.im.length := by
  induction n with
  | zero => rfl
  | succ n ih => rw [updateElements, setElement_length_im, ih]

/-- The bytes from lane `n` on keep their values, in both parts. -/
theorem updateElements_byte_ge (n : Nat) (x : LanePair) (k : Nat) (h : n * w.bytes ≤ k) :
    Slot.byte (updateElements w g n x).re k = Slot.byte x.re k ∧
      Slot.byte (updateElements w g n x).im k = Slot.byte x.im k := by
  induction n with
  | zero => exact ⟨rfl, rfl⟩
  | succ n ih =>
    have := ih (by rw [Nat.add_mul] at h; omega)
    exact ⟨(Slot.byte_setLane_ne _ _ _ _ _ (.inr h)).trans this.1,
      (Slot.byte_setLane_ne _ _ _ _ _ (.inr h)).trans this.2⟩

/-- The lanes from `n` on keep their values, in both parts. -/
theorem updateElements_lane_ge (n : Nat) (x : LanePair) (j : Nat) (h : n ≤ j) :
    Slot.lane (updateElements w g n x).re w j = Slot.lane x.re w j ∧
      Slot.lane (updateElements w g n x).im w j = Slot.lane x.im w j := by
  have hb : ∀ k, n * w.bytes ≤ j * w.bytes + k := fun k =>
    (Nat.mul_le_mul_right _ h).trans (Nat.le_add_right _ _)
  exact ⟨Slot.lane_congr w j fun k _ => (updateElements_byte_ge w g n x _ (hb k)).1,
    Slot.lane_congr w j fun k _ => (updateElements_byte_ge w g n x _ (hb k)).2⟩

/-- Each lane below `n` holds `g` of what it held, where the slots have those lanes. -/
theorem updateElements_lane (n : Nat) (x : LanePair) (j : Nat) (h : j < n)
    (hre : n * w.bytes ≤ x.re.length) (him : n * w.bytes ≤ x.im.length) :
    Slot.lane (updateElements w g n x).re w j = (g j (Slot.lane x.re w j) (Slot.lane x.im w j)).1 ∧
      Slot.lane (updateElements w g n x).im w j = (g j (Slot.lane x.re w j) (Slot.lane x.im w j)).2 := by
  induction n with
  | zero => omega
  | succ n ih =>
    by_cases hj : j = n
    · subst hj
      have hk := updateElements_lane_ge w g j x j (Nat.le_refl j)
      refine ⟨?_, ?_⟩
      · rw [updateElements]
        exact (Slot.lane_setLane_same _ w j _ (by simpa using hre)).trans (by rw [hk.1, hk.2])
      · rw [updateElements]
        exact (Slot.lane_setLane_same _ w j _ (by simpa using him)).trans (by rw [hk.1, hk.2])
    · have := ih (by omega) (by rw [Nat.add_mul] at hre; omega) (by rw [Nat.add_mul] at him; omega)
      exact ⟨(Slot.lane_setLane_ne _ w _ (Ne.symm hj)).trans this.1,
        (Slot.lane_setLane_ne _ w _ (Ne.symm hj)).trans this.2⟩

end

/-! ### CZERO's rows -/

theorem zeroRow_accRow (s : State) (w : Width) (mask : BitVec 4) (r q : BitVec 2) :
    (s.zeroRow w mask r).accRow q =
      if r = q ∧ mask.getLsbD r.toNat = true then zeroLanes w s.vl.toNat (s.accRow q) else s.accRow q := by
  unfold State.zeroRow
  by_cases hm : mask.getLsbD r.toNat = true
  · rw [if_pos hm]
    by_cases h : r = q
    · subst h; simp [hm]
    · rw [accRow_setAccRow_ne _ _ h, if_neg (fun hh => h hh.1)]
  · rw [if_neg hm, if_neg (fun hh => hm hh.2)]

/-- CZERO's rows leave everything but the accumulators alone. -/
theorem zeroRow_frame (s : State) (w : Width) (mask : BitVec 4) (r : BitVec 2) :
    s.zeroRow w mask r = { s with acc := (s.zeroRow w mask r).acc } := by
  unfold State.zeroRow; split <;> rfl

theorem czero_frame (s : State) (w : Width) (mask : BitVec 4) :
    s.czero w mask = { s with acc := (s.czero w mask).acc } := by
  unfold State.czero
  rw [zeroRow_frame, zeroRow_frame s w mask 0,
    zeroRow_frame { s with acc := _ } w mask 1, zeroRow_frame { s with acc := _ } w mask 2]

theorem zeroRow_vl (s : State) (w : Width) (mask : BitVec 4) (r : BitVec 2) :
    (s.zeroRow w mask r).vl = s.vl := by rw [zeroRow_frame]

/-- `czero` clears lanes `0 .. VL−1` of the selected rows and leaves the other rows alone
(42_cmac.md R155). -/
theorem czero_accRow (s : State) (w : Width) (mask : BitVec 4) (q : BitVec 2) :
    (s.czero w mask).accRow q =
      if mask.getLsbD q.toNat = true then zeroLanes w s.vl.toNat (s.accRow q) else s.accRow q := by
  have hq : q = 0 ∨ q = 1 ∨ q = 2 ∨ q = 3 := by revert q; decide
  unfold State.czero
  simp only [zeroRow_accRow, zeroRow_vl]
  rcases hq with rfl | rfl | rfl | rfl <;> simp

end Sys2Proof.Machine
end

