-- ==== Sys2Proof/Laws/Ops.lean ====
section
/-! SUPPORT. What the shared operations do, once each: requests, loads, stores, the write-back, the checks and
the fault entry. Later proofs cite these and do not unfold the operations. -/

namespace Sys2Proof.Machine

/-! ### Sequencing -/

@[simp] theorem andThen_done (s : State) (k : State → Micro) : (Micro.done s).andThen k = k s := rfl

@[simp] theorem andThen_raised (c : Cause) (n : Nat) (s : State) (k : State → Micro) :
    (Micro.raised c n s).andThen k = .raised c n s := rfl

@[simp] theorem andThen_cut (s : State) (k : State → Micro) : (Micro.cut s).andThen k = .cut s := rfl

theorem andThen_assoc (m : Micro) (k l : State → Micro) :
    (m.andThen k).andThen l = m.andThen fun s => (k s).andThen l := by cases m <;> rfl

/-- A sequence that ends done went through a state in which its first part was done. -/
theorem andThen_eq_done {m : Micro} {k : State → Micro} {t : State} (h : m.andThen k = .done t) :
    ∃ u, m = .done u ∧ k u = .done t := by
  cases m with
  | done u => exact ⟨u, rfl, h⟩
  | raised c n u => exact Micro.noConfusion h
  | cut u => exact Micro.noConfusion h

/-- A sequence that raises a fault raised it in its first part, or after it. -/
theorem andThen_eq_raised {m : Micro} {k : State → Micro} {c : Cause} {n : Nat} {t : State}
    (h : m.andThen k = .raised c n t) :
    m = .raised c n t ∨ ∃ u, m = .done u ∧ k u = .raised c n t := by
  cases m with
  | done u => exact .inr ⟨u, rfl, h⟩
  | raised c' n' u => exact .inl h
  | cut u => exact Micro.noConfusion h

/-- A sequence that is cut was cut in its first part, or after it. -/
theorem andThen_eq_cut {m : Micro} {k : State → Micro} {t : State} (h : m.andThen k = .cut t) :
    m = .cut t ∨ ∃ u, m = .done u ∧ k u = .cut t := by
  cases m with
  | done u => exact .inr ⟨u, rfl, h⟩
  | raised c n u => exact Micro.noConfusion h
  | cut u => exact .inl h

@[simp] theorem state_done (s : State) : (Micro.done s).state = s := rfl

@[simp] theorem state_raised (c : Cause) (n : Nat) (s : State) : (Micro.raised c n s).state = s := rfl

@[simp] theorem state_cut (s : State) : (Micro.cut s).state = s := rfl

@[simp] theorem finish_cut (s : State) : (Micro.cut s).finish = s := rfl

@[simp] theorem finish_done (s : State) : (Micro.done s).finish = s.respond 0 := rfl

@[simp] theorem finish_raised (c : Cause) (n : Nat) (s : State) :
    (Micro.raised c n s).finish = s.raiseFault c n := rfl

/-! ### Fault entry -/

theorem raiseFault_faulted {s : State} (h : s.fault = true) (c : Cause) (n : Nat) :
    s.raiseFault c n = s.refuse := by simp [State.raiseFault, h]

theorem raiseFault_running {s : State} (h : s.fault = false) (c : Cause) (n : Nat) :
    s.raiseFault c n =
      { s with
        fault := true
        cause := c
        fcmd := s.port.cmd
        faddr := if c = .misaligned ∨ c = .accessFault then BitVec.ofNat 64 n else 0
        responses := { data := 0, fault := true } :: s.responses } := by
  simp [State.raiseFault, h, State.refuse]

/-- Fault entry writes the fault state and the response and nothing else. -/
theorem raiseFault_frame (s : State) (c : Cause) (n : Nat) :
    s.raiseFault c n =
      { s with
        fault := true
        cause := (s.raiseFault c n).cause
        fcmd := (s.raiseFault c n).fcmd
        faddr := (s.raiseFault c n).faddr
        responses := { data := 0, fault := true } :: s.responses } := by
  unfold State.raiseFault
  split
  · rename_i h; simp [State.refuse, ← h]
  · rfl

theorem unlessFaulted_running {s : State} (h : s.fault = false) (run : State → State) :
    s.unlessFaulted run = run s := by simp [State.unlessFaulted, h]

theorem unlessFaulted_faulted {s : State} (h : s.fault = true) (run : State → State) :
    s.unlessFaulted run = s.refuse := by simp [State.unlessFaulted, h]

/-! ### Checks -/

theorem needFormat_none {s : State} (h : s.format = none) (k : Format → Micro) :
    s.needFormat k = .raised .illegalCfg 0 s := by simp [State.needFormat, h]

theorem needFormat_some {s : State} {f : Format} (h : s.format = some f) (k : Format → Micro) :
    s.needFormat k = k f := by simp [State.needFormat, h]

theorem needVcfg_ok {s : State} {f : Format} {c : BitVec 2} {g : Bool} (h : s.vcfgOk f c g = true) (m : Micro) :
    s.needVcfg f c g m = m := by simp [State.needVcfg, h]

theorem needVcfg_mismatch {s : State} {f : Format} {c : BitVec 2} {g : Bool} (h : s.vcfgOk f c g = false)
    (m : Micro) : s.needVcfg f c g m = .raised .vcfgMismatch 0 s := by simp [State.needVcfg, h]

theorem needAligned_ok {s : State} {f : Format} {a : Nat} (h : a % f.eb = 0) (m : Micro) :
    s.needAligned f a m = m := by simp [State.needAligned, h]

theorem needAligned_misaligned {s : State} {f : Format} {a : Nat} (h : a % f.eb ≠ 0) (m : Micro) :
    s.needAligned f a m = .raised .misaligned a s := by simp [State.needAligned, h]

/-! ### Requests -/

theorem space_pos (s : State) : 0 < s.space := Nat.two_pow_pos _

theorem eb_pos (f : Format) : 0 < f.eb := by unfold Format.eb; cases f.storage <;> decide

theorem reAddr_lt (s : State) (f : Format) (a i : Nat) : s.reAddr f a i < s.space := Nat.mod_lt _ (space_pos s)

theorem imAddr_lt (s : State) (f : Format) (a i : Nat) : s.imAddr f a i < s.space := Nat.mod_lt _ (space_pos s)

theorem memRead_ok {s : State} {a : Nat} {w : Width} (h : s.admits .read a w = true) :
    s.memRead none a w = .data (s.loadValue a w) (s.logRequest (s.readRequest a w)) := by
  simp [State.memRead, h, State.readRequest]

theorem memRead_refused {s : State} {a : Nat} {w : Width} (h : s.admits .read a w = false) :
    s.memRead none a w = .error (s.logRequest (refusedRead a w)) := by
  simp [State.memRead, h, refusedRead]

/-- A reset before this request: it is not made. -/
theorem memRead_cut (s : State) (a : Nat) (w : Width) : s.memRead (some s.trace.length) a w = .cut s := by
  simp [State.memRead]

/-- A reset before another request: this one is made as ever. -/
theorem memRead_uncut {s : State} {n : Nat} (h : n ≠ s.trace.length) (a : Nat) (w : Width) :
    s.memRead (some n) a w = s.memRead none a w := by simp [State.memRead, h]

theorem memWrite_cut (s : State) (a : Nat) (w : Width) (v : BitVec w.bits) :
    s.memWrite (some s.trace.length) a w v = .cut s := by simp [State.memWrite]

theorem memWrite_uncut {s : State} {n : Nat} (h : n ≠ s.trace.length) (a : Nat) (w : Width) (v : BitVec w.bits) :
    s.memWrite (some n) a w v = s.memWrite none a w v := by simp [State.memWrite, h]

theorem memWrite_ok {s : State} {a : Nat} {w : Width} (h : s.admits .write a w = true) (v : BitVec w.bits) :
    s.memWrite none a w v =
      .done { s with mem := s.mem.writeValue s.space a w.bytes v, trace := writeRequest a w v :: s.trace } := by
  simp [State.memWrite, h, writeRequest, State.logRequest]

theorem memWrite_refused {s : State} {a : Nat} {w : Width} (h : s.admits .write a w = false) (v : BitVec w.bits) :
    s.memWrite none a w v = .raised .accessFault a (s.logRequest (refusedWrite a w v)) := by
  simp [State.memWrite, h, refusedWrite]

/-! ### Interleaved loads -/

/-- The lane pair that a load of `n` elements from `a` leaves in a slot that held `x`. -/
def State.loadedPair (s : State) (f : Format) (a n : Nat) (x : LanePair) : LanePair :=
  updateElements f.storage (fun i _ _ => (s.reValue f a i, s.imValue f a i)) n x

/-- One element of a load whose two requests are admitted. -/
theorem loadElement_ok {s : State} {f : Format} {a i : Nat} (d : SlotName)
    (hre : s.admits .read (s.reAddr f a i) f.storage = true) (him : s.admits .read (s.imAddr f a i) f.storage = true) :
    loadElement none f d a i s =
      .done { s.setSlot d ((s.slot d).setElement f.storage i (s.reValue f a i) (s.imValue f a i)) with
        trace := s.readRequest (s.imAddr f a i) f.storage ::
          s.readRequest (s.reAddr f a i) f.storage :: s.trace } := by
  unfold loadElement
  rw [memRead_ok hre]
  have e := memRead_ok (s := s.logRequest (s.readRequest (s.reAddr f a i) f.storage)) him
  simp only
  change (match (s.logRequest (s.readRequest (s.reAddr f a i) f.storage)).memRead none (s.imAddr f a i) f.storage with
    | .cut s => _ | .error s => _ | .data im s => _) = _
  rw [e]
  cases d <;> rfl

/-- One element of a load whose first request is refused. -/
theorem loadElement_re_refused {s : State} {f : Format} {a i : Nat} (d : SlotName)
    (hre : s.admits .read (s.reAddr f a i) f.storage = false) :
    loadElement none f d a i s =
      .raised .accessFault (s.reAddr f a i) (s.logRequest (refusedRead (s.reAddr f a i) f.storage)) := by
  unfold loadElement
  rw [memRead_refused hre]
  rfl

/-- One element of a load whose second request is refused. -/
theorem loadElement_im_refused {s : State} {f : Format} {a i : Nat} (d : SlotName)
    (hre : s.admits .read (s.reAddr f a i) f.storage = true) (him : s.admits .read (s.imAddr f a i) f.storage = false) :
    loadElement none f d a i s =
      .raised .accessFault (s.imAddr f a i)
        { s with trace := refusedRead (s.imAddr f a i) f.storage ::
            s.readRequest (s.reAddr f a i) f.storage :: s.trace } := by
  unfold loadElement
  rw [memRead_ok hre]
  have e := memRead_refused (s := s.logRequest (s.readRequest (s.reAddr f a i) f.storage)) him
  simp only
  change (match (s.logRequest (s.readRequest (s.reAddr f a i) f.storage)).memRead none (s.imAddr f a i) f.storage with
    | .cut s => _ | .error s => _ | .data im s => _) = _
  rw [e]
  rfl

/-- A load of `n` elements whose requests are all admitted. -/
theorem loadElements_ok {s : State} {f : Format} {a n : Nat} (d : SlotName) (h : s.admitsElements .read f a n) :
    loadElements none f d a n s =
      .done { s.setSlot d (s.loadedPair f a n (s.slot d)) with
        trace := (s.loadRequests f a n).reverse ++ s.trace } := by
  induction n with
  | zero => cases d <;> simp [loadElements, State.loadedPair, updateElements, State.loadRequests,
      State.setSlot, State.slot]
  | succ n ih =>
    rw [loadElements, ih fun i hi => h i (by omega), andThen_done,
      loadElement_ok d (by cases d <;> exact (h n (by omega)).1) (by cases d <;> exact (h n (by omega)).2)]
    cases d <;>
      · simp [State.setSlot, State.slot, State.loadedPair, updateElements, State.loadRequests]
        exact ⟨rfl, rfl, rfl⟩

/-- A load of which element `k` is the first with a request refused, and that request is for the real part. -/
theorem loadElements_re_refused {s : State} {f : Format} {a n k : Nat} (d : SlotName) (hk : k < n)
    (h : s.admitsElements .read f a k) (hre : s.admits .read (s.reAddr f a k) f.storage = false) :
    loadElements none f d a n s =
      .raised .accessFault (s.reAddr f a k)
        { s.setSlot d (s.loadedPair f a k (s.slot d)) with
          trace := refusedRead (s.reAddr f a k) f.storage :: ((s.loadRequests f a k).reverse ++ s.trace) } := by
  induction n with
  | zero => omega
  | succ n ih =>
    rw [loadElements]
    by_cases hkn : k = n
    · subst hkn
      rw [loadElements_ok d h, andThen_done, loadElement_re_refused d (by cases d <;> exact hre)]
      cases d <;> rfl
    · rw [ih (by omega), andThen_raised]

/-- A load of which element `k` is the first with a request refused, and that request is for the imaginary
part. -/
theorem loadElements_im_refused {s : State} {f : Format} {a n k : Nat} (d : SlotName) (hk : k < n)
    (h : s.admitsElements .read f a k) (hre : s.admits .read (s.reAddr f a k) f.storage = true)
    (him : s.admits .read (s.imAddr f a k) f.storage = false) :
    loadElements none f d a n s =
      .raised .accessFault (s.imAddr f a k)
        { s.setSlot d (s.loadedPair f a k (s.slot d)) with
          trace := refusedRead (s.imAddr f a k) f.storage :: s.readRequest (s.reAddr f a k) f.storage ::
            ((s.loadRequests f a k).reverse ++ s.trace) } := by
  induction n with
  | zero => omega
  | succ n ih =>
    rw [loadElements]
    by_cases hkn : k = n
    · subst hkn
      rw [loadElements_ok d h, andThen_done,
        loadElement_im_refused d (by cases d <;> exact hre) (by cases d <;> exact him)]
      cases d <;> rfl
    · rw [ih (by omega), andThen_raised]

/-- Either every request of a vector access is admitted, or there is a first element with one refused. -/
theorem admitsElements_or_first_refused (s : State) (kind : RequestKind) (f : Format) (a n : Nat) :
    s.admitsElements kind f a n ∨
      ∃ k < n, s.admitsElements kind f a k ∧
        (s.admits kind (s.reAddr f a k) f.storage = false ∨
          s.admits kind (s.reAddr f a k) f.storage = true ∧ s.admits kind (s.imAddr f a k) f.storage = false) := by
  induction n with
  | zero => exact .inl fun i hi => by omega
  | succ n ih =>
    rcases ih with h | ⟨k, hk, h⟩
    · cases hre : s.admits kind (s.reAddr f a n) f.storage with
      | false => exact .inr ⟨n, by omega, h, .inl hre⟩
      | true =>
        cases him : s.admits kind (s.imAddr f a n) f.storage with
        | false => exact .inr ⟨n, by omega, h, .inr ⟨hre, him⟩⟩
        | true =>
          refine .inl fun i hi => ?_
          by_cases hin : i = n
          · subst hin; exact ⟨hre, him⟩
          · exact h i (by omega)
    · exact .inr ⟨k, by omega, h⟩

/-- `vload`, every request admitted. -/
theorem vload_ok {s : State} {f : Format} {a : Nat} (d : SlotName) (ha : a % f.eb = 0)
    (h : s.admitsElements .read f a s.vl.toNat) :
    vload none f d a s =
      .done { s.setSlot d (s.loadedPair f a s.vl.toNat (s.slot d)) with
        trace := (s.loadRequests f a s.vl.toNat).reverse ++ s.trace } := by
  rw [vload, needAligned_ok ha, loadElements_ok d h]

/-- `vload` from a base address that is not aligned: no state changes. -/
theorem vload_misaligned {s : State} {f : Format} {a : Nat} (d : SlotName) (ha : a % f.eb ≠ 0) :
    vload none f d a s = .raised .misaligned a s := needAligned_misaligned ha _

/-- Everything `vload` can do: the base address is not aligned; it ends done; or a request is refused, the
elements before it are loaded, and the target lanes are then free. -/
theorem vload_cases (f : Format) (d : SlotName) (a : Nat) (s : State) :
    (a % f.eb ≠ 0 ∧ vload none f d a s = .raised .misaligned a s) ∨
    (a % f.eb = 0 ∧ s.admitsElements .read f a s.vl.toNat ∧
      vload none f d a s =
        .done { s.setSlot d (s.loadedPair f a s.vl.toNat (s.slot d)) with
          trace := (s.loadRequests f a s.vl.toNat).reverse ++ s.trace }) ∨
    (a % f.eb = 0 ∧ ∃ k < s.vl.toNat, s.admitsElements .read f a k ∧
      ((s.admits .read (s.reAddr f a k) f.storage = false ∧
        vload none f d a s = .raised .accessFault (s.reAddr f a k)
          (State.freeTarget { s.setSlot d (s.loadedPair f a k (s.slot d)) with
            trace := refusedRead (s.reAddr f a k) f.storage ::
              ((s.loadRequests f a k).reverse ++ s.trace) } f d)) ∨
       (s.admits .read (s.reAddr f a k) f.storage = true ∧ s.admits .read (s.imAddr f a k) f.storage = false ∧
        vload none f d a s = .raised .accessFault (s.imAddr f a k)
          (State.freeTarget { s.setSlot d (s.loadedPair f a k (s.slot d)) with
            trace := refusedRead (s.imAddr f a k) f.storage :: s.readRequest (s.reAddr f a k) f.storage ::
              ((s.loadRequests f a k).reverse ++ s.trace) } f d)))) := by
  by_cases ha : a % f.eb = 0
  · rcases admitsElements_or_first_refused s .read f a s.vl.toNat with h | ⟨k, hk, h, hre | ⟨hre, him⟩⟩
    · exact .inr (.inl ⟨ha, h, vload_ok d ha h⟩)
    · refine .inr (.inr ⟨ha, k, hk, h, .inl ⟨hre, ?_⟩⟩)
      rw [vload, needAligned_ok ha, loadElements_re_refused d hk h hre]
    · refine .inr (.inr ⟨ha, k, hk, h, .inr ⟨hre, him, ?_⟩⟩)
      rw [vload, needAligned_ok ha, loadElements_im_refused d hk h hre him]
  · exact .inl ⟨ha, vload_misaligned d ha⟩

/-! ### Interleaved stores -/

/-- The memory after `n` elements of the lane pair `x` have been stored at `a`. -/
def State.storedMem (s : State) (f : Format) (x : LanePair) (a : Nat) : Nat → Memory
  | 0 => s.mem
  | n + 1 =>
    ((s.storedMem f x a n).writeValue s.space (s.reAddr f a n) f.storage.bytes
        (Slot.lane x.re f.storage n)).writeValue s.space (s.imAddr f a n) f.storage.bytes
      (Slot.lane x.im f.storage n)

theorem storeElement_ok {s : State} {f : Format} {a i : Nat} (d : SlotName)
    (hre : s.admits .write (s.reAddr f a i) f.storage = true) (him : s.admits .write (s.imAddr f a i) f.storage = true) :
    storeElement none f d a i s =
      .done { s with
        mem := (s.mem.writeValue s.space (s.reAddr f a i) f.storage.bytes
            (Slot.lane (s.slot d).re f.storage i)).writeValue s.space (s.imAddr f a i) f.storage.bytes
          (Slot.lane (s.slot d).im f.storage i)
        trace := writeRequest (s.imAddr f a i) f.storage (Slot.lane (s.slot d).im f.storage i) ::
          writeRequest (s.reAddr f a i) f.storage (Slot.lane (s.slot d).re f.storage i) :: s.trace } := by
  unfold storeElement
  rw [memWrite_ok hre, andThen_done]
  refine (memWrite_ok ?_ _).trans ?_
  · exact him
  · cases d <;> rfl

theorem storeElement_re_refused {s : State} {f : Format} {a i : Nat} (d : SlotName)
    (hre : s.admits .write (s.reAddr f a i) f.storage = false) :
    storeElement none f d a i s =
      .raised .accessFault (s.reAddr f a i)
        (s.logRequest (refusedWrite (s.reAddr f a i) f.storage (Slot.lane (s.slot d).re f.storage i))) := by
  unfold storeElement
  rw [memWrite_refused hre, andThen_raised]

theorem storeElement_im_refused {s : State} {f : Format} {a i : Nat} (d : SlotName)
    (hre : s.admits .write (s.reAddr f a i) f.storage = true) (him : s.admits .write (s.imAddr f a i) f.storage = false) :
    storeElement none f d a i s =
      .raised .accessFault (s.imAddr f a i)
        { s with
          mem := s.mem.writeValue s.space (s.reAddr f a i) f.storage.bytes (Slot.lane (s.slot d).re f.storage i)
          trace := refusedWrite (s.imAddr f a i) f.storage (Slot.lane (s.slot d).im f.storage i) ::
            writeRequest (s.reAddr f a i) f.storage (Slot.lane (s.slot d).re f.storage i) :: s.trace } := by
  unfold storeElement
  rw [memWrite_ok hre, andThen_done]
  refine (memWrite_refused ?_ _).trans ?_
  · exact him
  · cases d <;> rfl

/-- A store of `n` elements whose requests are all admitted. -/
theorem storeElements_ok {s : State} {f : Format} {a n : Nat} (d : SlotName) (h : s.admitsElements .write f a n) :
    storeElements none f d a n s =
      .done { s with
        mem := s.storedMem f (s.slot d) a n
        trace := (s.storeRequests f (s.slot d) a n).reverse ++ s.trace } := by
  induction n with
  | zero => rfl
  | succ n ih =>
    rw [storeElements, ih fun i hi => h i (by omega), andThen_done]
    refine (storeElement_ok d ?_ ?_).trans ?_
    · exact (h n (by omega)).1
    · exact (h n (by omega)).2
    · cases d <;>
      · simp [State.storeRequests, State.storedMem, State.slot]
        exact ⟨rfl, rfl, rfl⟩

/-- A store of which element `k` is the first with a request refused, and that request is for the real part:
the elements before it are stored. -/
theorem storeElements_re_refused {s : State} {f : Format} {a n k : Nat} (d : SlotName) (hk : k < n)
    (h : s.admitsElements .write f a k) (hre : s.admits .write (s.reAddr f a k) f.storage = false) :
    storeElements none f d a n s =
      .raised .accessFault (s.reAddr f a k)
        { s with
          mem := s.storedMem f (s.slot d) a k
          trace := refusedWrite (s.reAddr f a k) f.storage (Slot.lane (s.slot d).re f.storage k) ::
            ((s.storeRequests f (s.slot d) a k).reverse ++ s.trace) } := by
  induction n with
  | zero => omega
  | succ n ih =>
    rw [storeElements]
    by_cases hkn : k = n
    · subst hkn
      rw [storeElements_ok d h, andThen_done]
      refine (storeElement_re_refused d ?_).trans ?_
      · exact hre
      · cases d <;> rfl
    · rw [ih (by omega), andThen_raised]

/-- A store of which element `k` is the first with a request refused, and that request is for the imaginary
part: the elements before it and its real part are stored. -/
theorem storeElements_im_refused {s : State} {f : Format} {a n k : Nat} (d : SlotName) (hk : k < n)
    (h : s.admitsElements .write f a k) (hre : s.admits .write (s.reAddr f a k) f.storage = true)
    (him : s.admits .write (s.imAddr f a k) f.storage = false) :
    storeElements none f d a n s =
      .raised .accessFault (s.imAddr f a k)
        { s with
          mem := (s.storedMem f (s.slot d) a k).writeValue s.space (s.reAddr f a k) f.storage.bytes
            (Slot.lane (s.slot d).re f.storage k)
          trace := refusedWrite (s.imAddr f a k) f.storage (Slot.lane (s.slot d).im f.storage k) ::
            writeRequest (s.reAddr f a k) f.storage (Slot.lane (s.slot d).re f.storage k) ::
            ((s.storeRequests f (s.slot d) a k).reverse ++ s.trace) } := by
  induction n with
  | zero => omega
  | succ n ih =>
    rw [storeElements]
    by_cases hkn : k = n
    · subst hkn
      rw [storeElements_ok d h, andThen_done]
      refine (storeElement_im_refused d ?_ ?_).trans ?_
      · exact hre
      · exact him
      · cases d <;> rfl
    · rw [ih (by omega), andThen_raised]

/-- `vstore`, every request admitted. -/
theorem vstore_ok {s : State} {f : Format} {a : Nat} (d : SlotName) (ha : a % f.eb = 0)
    (h : s.admitsElements .write f a s.vl.toNat) :
    vstore none f d a s =
      .done { s with
        mem := s.storedMem f (s.slot d) a s.vl.toNat
        trace := (s.storeRequests f (s.slot d) a s.vl.toNat).reverse ++ s.trace } := by
  rw [vstore, needAligned_ok ha, storeElements_ok d h]

/-- Everything `vstore` can do. -/
theorem vstore_cases (f : Format) (d : SlotName) (a : Nat) (s : State) :
    (a % f.eb ≠ 0 ∧ vstore none f d a s = .raised .misaligned a s) ∨
    (a % f.eb = 0 ∧ s.admitsElements .write f a s.vl.toNat ∧
      vstore none f d a s =
        .done { s with
          mem := s.storedMem f (s.slot d) a s.vl.toNat
          trace := (s.storeRequests f (s.slot d) a s.vl.toNat).reverse ++ s.trace }) ∨
    (a % f.eb = 0 ∧ ∃ k < s.vl.toNat, s.admitsElements .write f a k ∧
      ((s.admits .write (s.reAddr f a k) f.storage = false ∧
        vstore none f d a s = .raised .accessFault (s.reAddr f a k)
          { s with
            mem := s.storedMem f (s.slot d) a k
            trace := refusedWrite (s.reAddr f a k) f.storage (Slot.lane (s.slot d).re f.storage k) ::
              ((s.storeRequests f (s.slot d) a k).reverse ++ s.trace) }) ∨
       (s.admits .write (s.reAddr f a k) f.storage = true ∧ s.admits .write (s.imAddr f a k) f.storage = false ∧
        vstore none f d a s = .raised .accessFault (s.imAddr f a k)
          { s with
            mem := (s.storedMem f (s.slot d) a k).writeValue s.space (s.reAddr f a k) f.storage.bytes
              (Slot.lane (s.slot d).re f.storage k)
            trace := refusedWrite (s.imAddr f a k) f.storage (Slot.lane (s.slot d).im f.storage k) ::
              writeRequest (s.reAddr f a k) f.storage (Slot.lane (s.slot d).re f.storage k) ::
              ((s.storeRequests f (s.slot d) a k).reverse ++ s.trace) }))) := by
  by_cases ha : a % f.eb = 0
  · rcases admitsElements_or_first_refused s .write f a s.vl.toNat with h | ⟨k, hk, h, hre | ⟨hre, him⟩⟩
    · exact .inr (.inl ⟨ha, h, vstore_ok d ha h⟩)
    · refine .inr (.inr ⟨ha, k, hk, h, .inl ⟨hre, ?_⟩⟩)
      rw [vstore, needAligned_ok ha, storeElements_re_refused d hk h hre]
    · refine .inr (.inr ⟨ha, k, hk, h, .inr ⟨hre, him, ?_⟩⟩)
      rw [vstore, needAligned_ok ha, storeElements_im_refused d hk h hre him]
  · exact .inl ⟨ha, needAligned_misaligned ha _⟩

/-- A store keeps the canonical form of the memory. -/
theorem storedMem_wf (s : State) (f : Format) (x : LanePair) (a n : Nat) (h : s.mem.wf = true) :
    (s.storedMem f x a n).wf = true := by
  induction n with
  | zero => exact h
  | succ n ih => exact Memory.wf_writeBytes _ _ _ _ (Memory.wf_writeBytes _ _ _ _ ih)

/-- A store lists nothing outside the address space. -/
theorem storedMem_in_space (s : State) (f : Format) (x : LanePair) (a n : Nat)
    (h : ∀ c ∈ s.mem, c.1 < s.space) : ∀ c ∈ s.storedMem f x a n, c.1 < s.space := by
  induction n with
  | zero => exact h
  | succ n ih =>
    exact Memory.addr_lt_writeBytes (space_pos s) _ _ _ (Memory.addr_lt_writeBytes (space_pos s) _ _ _ ih)

theorem reAddr_add (s : State) (f : Format) (a i k : Nat) :
    (s.reAddr f a i + k) % s.space = (a + (2 * i * f.eb + k)) % s.space := by
  unfold State.reAddr; rw [Nat.mod_add_mod]; congr 1; omega

theorem imAddr_add (s : State) (f : Format) (a i k : Nat) :
    (s.imAddr f a i + k) % s.space = (a + ((2 * i + 1) * f.eb + k)) % s.space := by
  unfold State.imAddr; rw [Nat.mod_add_mod]; congr 1; omega

/-- A store leaves every byte outside its elements alone. -/
theorem storedMem_read_outside (s : State) (f : Format) (x : LanePair) (a n y : Nat)
    (h : ¬ s.inElements f a n y) : (s.storedMem f x a n).read y = s.mem.read y := by
  induction n with
  | zero => rfl
  | succ n ih =>
    have hw : f.storage.bytes = f.eb := rfl
    rw [State.storedMem, Memory.writeValue, Memory.writeValue, Memory.read_writeBytes_ne,
      Memory.read_writeBytes_ne, ih]
    · rintro ⟨k, hk, rfl⟩
      exact h ⟨k, lt_of_lt_of_le hk (Nat.mul_le_mul_right _ (by omega)), rfl⟩
    · rintro k hk rfl
      refine h ⟨2 * n * f.eb + k, ?_, (reAddr_add s f a n k)⟩
      rw [show 2 * (n + 1) * f.eb = 2 * n * f.eb + f.eb + f.eb by ring]; omega
    · rintro k hk rfl
      refine h ⟨(2 * n + 1) * f.eb + k, ?_, (imAddr_add s f a n k)⟩
      rw [show 2 * (n + 1) * f.eb = 2 * n * f.eb + f.eb + f.eb by ring,
        show (2 * n + 1) * f.eb = 2 * n * f.eb + f.eb by ring]; omega

theorem mod_ne_of_lt {size a x y : Nat} (hx : x < size) (hy : y < size) (h : x ≠ y) :
    (a + x) % size ≠ (a + y) % size := by
  intro he
  rcases Nat.lt_or_gt_of_ne h with hlt | hgt
  · have h2 := Nat.sub_mod_eq_zero_of_mod_eq he.symm
    rw [show a + y - (a + x) = y - x by omega, Nat.mod_eq_of_lt (by omega)] at h2
    omega
  · have h2 := Nat.sub_mod_eq_zero_of_mod_eq he
    rw [show a + x - (a + y) = x - y by omega, Nat.mod_eq_of_lt (by omega)] at h2
    omega

/-- After a store, the bytes of each element are those of its lanes, where the elements do not wrap onto each
other. -/
theorem storedMem_read (s : State) (f : Format) (x : LanePair) (a n i k : Nat) (hi : i < n) (hk : k < f.eb)
    (hn : 2 * n * f.eb ≤ s.space) :
    (s.storedMem f x a n).read ((s.reAddr f a i + k) % s.space) = leByte (Slot.lane x.re f.storage i) k ∧
      (s.storedMem f x a n).read ((s.imAddr f a i + k) % s.space) = leByte (Slot.lane x.im f.storage i) k := by
  induction n with
  | zero => omega
  | succ n ih =>
    have hw : f.storage.bytes = f.eb := rfl
    have e2 : 2 * (n + 1) * f.eb = 2 * n * f.eb + f.eb + f.eb := by ring
    have e1 : (2 * n + 1) * f.eb = 2 * n * f.eb + f.eb := by ring
    have e3 : (2 * i + 1) * f.eb = 2 * i * f.eb + f.eb := by ring
    rw [e2] at hn
    by_cases h : i = n
    · subst h
      refine ⟨?_, Memory.read_writeBytes _ _ _ _ _ _ hk (by omega)⟩
      rw [State.storedMem, Memory.writeValue, Memory.writeValue, Memory.read_writeBytes_ne]
      · exact Memory.read_writeBytes _ _ _ _ _ _ hk (by omega)
      · intro j hj
        rw [hw] at hj
        rw [reAddr_add, imAddr_add]
        exact mod_ne_of_lt (by omega) (by omega) (by omega)
    · have hlt : 2 * i * f.eb + f.eb + f.eb ≤ 2 * n * f.eb := by
        rw [show 2 * i * f.eb + f.eb + f.eb = 2 * (i + 1) * f.eb by ring]
        exact Nat.mul_le_mul_right _ (by omega)
      have := ih (by omega) (by omega)
      refine ⟨?_, ?_⟩
      · rw [State.storedMem, Memory.writeValue, Memory.writeValue, Memory.read_writeBytes_ne,
          Memory.read_writeBytes_ne, this.1]
        · intro j hj
          rw [hw] at hj
          rw [reAddr_add, reAddr_add]
          exact mod_ne_of_lt (by omega) (by omega) (by omega)
        · intro j hj
          rw [hw] at hj
          rw [reAddr_add, imAddr_add]
          exact mod_ne_of_lt (by omega) (by omega) (by omega)
      · rw [State.storedMem, Memory.writeValue, Memory.writeValue, Memory.read_writeBytes_ne,
          Memory.read_writeBytes_ne, this.2]
        · intro j hj
          rw [hw] at hj
          rw [imAddr_add, reAddr_add]
          exact mod_ne_of_lt (by omega) (by omega) (by omega)
        · intro j hj
          rw [hw] at hj
          rw [imAddr_add, imAddr_add]
          exact mod_ne_of_lt (by omega) (by omega) (by omega)

/-! ### Scalar loads -/

/-- `sload`, both requests admitted. -/
theorem sload_ok {s : State} {f : Format} {a : Nat} (r : BitVec 2) (ha : a % f.eb = 0)
    (h : s.admitsElements .read f a 1) :
    sload none f r a s =
      .done { s.setScalRow r
          { re := (s.reValue f a 0).setWidth 64, im := (s.imValue f a 0).setWidth 64 } with
        trace := s.readRequest (s.imAddr f a 0) f.storage ::
          s.readRequest (s.reAddr f a 0) f.storage :: s.trace } := by
  obtain ⟨hre, him⟩ := h 0 (by omega)
  rw [sload, needAligned_ok ha, memRead_ok hre]
  have e := memRead_ok (s := s.logRequest (s.readRequest (s.reAddr f a 0) f.storage)) him
  change (match (s.logRequest (s.readRequest (s.reAddr f a 0) f.storage)).memRead none (s.imAddr f a 0) f.storage with
    | .cut s => _ | .error s => _ | .data im s => _) = _
  rw [e]
  rfl

/-- Everything `sload` can do. -/
theorem sload_cases (f : Format) (r : BitVec 2) (a : Nat) (s : State) :
    (a % f.eb ≠ 0 ∧ sload none f r a s = .raised .misaligned a s) ∨
    (a % f.eb = 0 ∧ s.admitsElements .read f a 1 ∧
      sload none f r a s =
        .done { s.setScalRow r
            { re := (s.reValue f a 0).setWidth 64, im := (s.imValue f a 0).setWidth 64 } with
          trace := s.readRequest (s.imAddr f a 0) f.storage ::
            s.readRequest (s.reAddr f a 0) f.storage :: s.trace }) ∨
    (a % f.eb = 0 ∧ s.admits .read (s.reAddr f a 0) f.storage = false ∧
      sload none f r a s = .raised .accessFault (s.reAddr f a 0)
        ((s.logRequest (refusedRead (s.reAddr f a 0) f.storage)).freeScal r)) ∨
    (a % f.eb = 0 ∧ s.admits .read (s.reAddr f a 0) f.storage = true ∧ s.admits .read (s.imAddr f a 0) f.storage = false ∧
      sload none f r a s = .raised .accessFault (s.imAddr f a 0)
        (((s.logRequest (s.readRequest (s.reAddr f a 0) f.storage)).logRequest
          (refusedRead (s.imAddr f a 0) f.storage)).freeScal r)) := by
  by_cases ha : a % f.eb = 0
  · cases hre : s.admits .read (s.reAddr f a 0) f.storage with
    | false =>
      refine .inr (.inr (.inl ⟨ha, rfl, ?_⟩))
      rw [sload, needAligned_ok ha, memRead_refused hre]
      rfl
    | true =>
      cases him : s.admits .read (s.imAddr f a 0) f.storage with
      | false =>
        refine .inr (.inr (.inr ⟨ha, rfl, rfl, ?_⟩))
        rw [sload, needAligned_ok ha, memRead_ok hre]
        have e := memRead_refused (s := s.logRequest (s.readRequest (s.reAddr f a 0) f.storage)) him
        change (match (s.logRequest (s.readRequest (s.reAddr f a 0) f.storage)).memRead none (s.imAddr f a 0)
          f.storage with | .cut s => _ | .error s => _ | .data im s => _) = _
        rw [e]
        rfl
      | true =>
        have h : s.admitsElements .read f a 1 := fun i hi => by
          obtain rfl : i = 0 := by omega
          exact ⟨hre, him⟩
        exact .inr (.inl ⟨ha, h, sload_ok r ha h⟩)
  · exact .inl ⟨ha, needAligned_misaligned ha _⟩

/-! ### The write-back -/

/-- The scratch after the write-back's load and addition. -/
def State.summedPair (s : State) (f : Format) (r : BitVec 2) (d : Nat) : LanePair :=
  addLanes f (s.accRow r) s.vl.toNat (s.loadedPair f d s.vl.toNat s.wbs)

/-- A store's memory depends only on the memory and the parameters before it. -/
theorem storedMem_congr {s t : State} (hm : t.mem = s.mem) (hp : t.params = s.params) (f : Format) (x : LanePair)
    (a n : Nat) : t.storedMem f x a n = s.storedMem f x a n := by
  induction n with
  | zero => exact hm
  | succ n ih => simp only [State.storedMem, ih, State.space, State.reAddr, State.imAddr, hp]

/-- A store's requests depend only on the parameters. -/
theorem storeRequests_congr {s t : State} (hp : t.params = s.params) (f : Format) (x : LanePair)
    (a n : Nat) : t.storeRequests f x a n = s.storeRequests f x a n := by
  induction n with
  | zero => rfl
  | succ n ih => simp only [State.storeRequests, ih, State.space, State.reAddr, State.imAddr, hp]

/-- `writeback`, every request admitted. -/
theorem writeback_ok {s : State} {f : Format} {d : Nat} (r : BitVec 2) (ha : d % f.eb = 0)
    (hr : s.admitsElements .read f d s.vl.toNat) (hw : s.admitsElements .write f d s.vl.toNat) :
    writeback none f r d s =
      .done { s with
        wbs := s.summedPair f r d
        mem := s.storedMem f (s.summedPair f r d) d s.vl.toNat
        trace := (s.storeRequests f (s.summedPair f r d) d s.vl.toNat).reverse ++
          ((s.loadRequests f d s.vl.toNat).reverse ++ s.trace) } := by
  rw [writeback, vload_ok _ ha hr, andThen_done]
  refine (vstore_ok .wbs ha ?_).trans ?_
  · exact hw
  · rw [storedMem_congr (s := s), storeRequests_congr (s := s)] <;> rfl

/-- The state between the two halves of a write-back: the reads made, the scratch holding the sums. -/
def State.readAndSummed (s : State) (f : Format) (r : BitVec 2) (d : Nat) : State :=
  { s with
    wbs := s.summedPair f r d
    trace := (s.loadRequests f d s.vl.toNat).reverse ++ s.trace }

/-- `writeback`, every read admitted, is the store of the sums. -/
theorem writeback_reads_ok {s : State} {f : Format} {d : Nat} (r : BitVec 2) (ha : d % f.eb = 0)
    (hr : s.admitsElements .read f d s.vl.toNat) :
    writeback none f r d s = vstore none f .wbs d (s.readAndSummed f r d) := by
  rw [writeback, vload_ok _ ha hr, andThen_done]
  rfl

/-- Everything `writeback` can do: the address is not aligned; it ends done; a read is refused, and it ends as
its load does; or, after every read, a write is refused, and the elements before it are stored. -/
theorem writeback_cases (f : Format) (r : BitVec 2) (d : Nat) (s : State) :
    (d % f.eb ≠ 0 ∧ writeback none f r d s = .raised .misaligned d s) ∨
    (d % f.eb = 0 ∧ s.admitsElements .read f d s.vl.toNat ∧ s.admitsElements .write f d s.vl.toNat ∧
      writeback none f r d s =
        .done { s with
          wbs := s.summedPair f r d
          mem := s.storedMem f (s.summedPair f r d) d s.vl.toNat
          trace := (s.storeRequests f (s.summedPair f r d) d s.vl.toNat).reverse ++
            ((s.loadRequests f d s.vl.toNat).reverse ++ s.trace) }) ∨
    (∃ c n t, vload none f .wbs d s = .raised c n t ∧ writeback none f r d s = .raised c n t) ∨
    (d % f.eb = 0 ∧ s.admitsElements .read f d s.vl.toNat ∧ ∃ k < s.vl.toNat, s.admitsElements .write f d k ∧
      ((s.admits .write (s.reAddr f d k) f.storage = false ∧
        writeback none f r d s = .raised .accessFault (s.reAddr f d k)
          { s with
            wbs := s.summedPair f r d
            mem := s.storedMem f (s.summedPair f r d) d k
            trace := refusedWrite (s.reAddr f d k) f.storage (Slot.lane (s.summedPair f r d).re f.storage k) ::
              ((s.storeRequests f (s.summedPair f r d) d k).reverse ++
                ((s.loadRequests f d s.vl.toNat).reverse ++ s.trace)) }) ∨
       (s.admits .write (s.reAddr f d k) f.storage = true ∧ s.admits .write (s.imAddr f d k) f.storage = false ∧
        writeback none f r d s = .raised .accessFault (s.imAddr f d k)
          { s with
            wbs := s.summedPair f r d
            mem := (s.storedMem f (s.summedPair f r d) d k).writeValue s.space (s.reAddr f d k) f.storage.bytes
              (Slot.lane (s.summedPair f r d).re f.storage k)
            trace := refusedWrite (s.imAddr f d k) f.storage (Slot.lane (s.summedPair f r d).im f.storage k) ::
              writeRequest (s.reAddr f d k) f.storage (Slot.lane (s.summedPair f r d).re f.storage k) ::
              ((s.storeRequests f (s.summedPair f r d) d k).reverse ++
                ((s.loadRequests f d s.vl.toNat).reverse ++ s.trace)) }))) := by
  have hm : ∀ k, (s.readAndSummed f r d).storedMem f (s.summedPair f r d) d k =
      s.storedMem f (s.summedPair f r d) d k :=
    fun k => storedMem_congr (s := s) (t := s.readAndSummed f r d) rfl rfl _ _ _ _
  have hq : ∀ k, (s.readAndSummed f r d).storeRequests f (s.summedPair f r d) d k =
      s.storeRequests f (s.summedPair f r d) d k :=
    fun k => storeRequests_congr (s := s) (t := s.readAndSummed f r d) rfl _ _ _ _
  rcases vload_cases f .wbs d s with ⟨ha, h⟩ | ⟨ha, hr, -⟩ | ⟨-, k, -, -, ⟨-, h⟩ | ⟨-, -, h⟩⟩
  · exact .inl ⟨ha, by rw [writeback, h, andThen_raised]⟩
  · refine .inr ?_
    rcases vstore_cases f .wbs d (s.readAndSummed f r d) with ⟨h, -⟩ | ⟨-, hw, -⟩ | ⟨-, k, hk, hw, hc⟩
    · exact absurd ha h
    · exact .inl ⟨ha, hr, hw, writeback_ok r ha hr hw⟩
    · refine .inr (.inr ⟨ha, hr, k, hk, hw, ?_⟩)
      rw [writeback_reads_ok r ha hr]
      rcases hc with ⟨hre, h⟩ | ⟨hre, him, h⟩
      · refine .inl ⟨hre, h.trans ?_⟩
        rw [show (s.readAndSummed f r d).slot .wbs = s.summedPair f r d from rfl, hm, hq]
        rfl
      · refine .inr ⟨hre, him, h.trans ?_⟩
        rw [show (s.readAndSummed f r d).slot .wbs = s.summedPair f r d from rfl, hm, hq]
        rfl
  all_goals exact .inr (.inr (.inl ⟨_, _, _, h, by rw [writeback, h, andThen_raised]⟩))

end Sys2Proof.Machine
end

