-- ==== Sys2Proof/Laws/PerInstr.lean ====
section
/-! SUPPORT. Statements made per command. `AssignedOpcode`: the encoding of every command, well-formed or not,
has one of the 14 OPC values of spec/30_encoding.md R94, and leaves zero every bit that R92 requires to be
zero. -/

namespace Sys2Proof.Laws

open Sys2Proof.Machine

/-- The encoding's OPC is assigned, and its unused bits are zero. -/
def AssignedOpcode.Statement (i : Instr) : Prop :=
  fieldOpc (encode i) ∈ assignedOpcodes ∧ encode i &&& requiredZero (fieldOpc (encode i)) = 0

theorem AssignedOpcode.nop : AssignedOpcode.Statement .nop := by unfold AssignedOpcode.Statement; decide
theorem AssignedOpcode.sreset : AssignedOpcode.Statement .sreset := by unfold AssignedOpcode.Statement; decide
theorem AssignedOpcode.mm2 : AssignedOpcode.Statement .mm2 := by unfold AssignedOpcode.Statement; decide
theorem AssignedOpcode.mm4 : AssignedOpcode.Statement .mm4 := by unfold AssignedOpcode.Statement; decide
theorem AssignedOpcode.mm : AssignedOpcode.Statement .mm := by unfold AssignedOpcode.Statement; decide

/-- The statement from the OPC value, so that only the unused bits are left to check. -/
theorem assignedOpcode_of {i : Instr} (o : BitVec 8) (h : fieldOpc (encode i) = o) (ho : o ∈ assignedOpcodes)
    (hz : encode i &&& requiredZero o = 0) : AssignedOpcode.Statement i := by
  unfold AssignedOpcode.Statement; rw [h]; exact ⟨ho, hz⟩

theorem AssignedOpcode.csrw (csr : BitVec 12) : AssignedOpcode.Statement (.csrw csr) := by
  refine assignedOpcode_of 0x08 ?_ (by decide) ?_
  · simp only [fieldOpc, encode]; revert csr; decide
  · simp only [encode]; revert csr; decide

theorem AssignedOpcode.csrr (csr : BitVec 12) : AssignedOpcode.Statement (.csrr csr) := by
  refine assignedOpcode_of 0x09 ?_ (by decide) ?_
  · simp only [fieldOpc, encode]; revert csr; decide
  · simp only [encode]; revert csr; decide

theorem AssignedOpcode.vlreq (ew grp : BitVec 2) : AssignedOpcode.Statement (.vlreq ew grp) := by
  unfold AssignedOpcode.Statement; revert ew grp; decide

theorem AssignedOpcode.cld (vsel : BitVec 2) : AssignedOpcode.Statement (.cld vsel) := by
  unfold AssignedOpcode.Statement; revert vsel; decide

theorem AssignedOpcode.cst (vsel : BitVec 2) : AssignedOpcode.Statement (.cst vsel) := by
  unfold AssignedOpcode.Statement; revert vsel; decide

theorem AssignedOpcode.sld (row : BitVec 2) : AssignedOpcode.Statement (.sld row) := by
  unfold AssignedOpcode.Statement; revert row; decide

theorem AssignedOpcode.czero (mask : BitVec 4) : AssignedOpcode.Statement (.czero mask) := by
  unfold AssignedOpcode.Statement; revert mask; decide

theorem AssignedOpcode.cmac (row : BitVec 2) (buf : BitVec 1) : AssignedOpcode.Statement (.cmac row buf) := by
  unfold AssignedOpcode.Statement; revert row buf; decide

theorem AssignedOpcode.wb (row : BitVec 2) : AssignedOpcode.Statement (.wb row) := by
  unfold AssignedOpcode.Statement; revert row; decide

end Sys2Proof.Laws
end

