-- ==== Sys2Proof/Tests/Slice0.lean ====
section
/-! SUPPORT. The model's own tests: ill-formed terms refused, words written out from spec/30_encoding.md
decoded, the spec's worked examples run for one step, and for each statement with hypotheses a state and
operands that meet them all. -/

namespace Sys2Proof.Tests

open Sys2Proof Sys2Proof.Machine

/-! ### WellFormed refuses what R95 (3) refuses -/

theorem test_wf_vlreq_ew0 : (Instr.vlreq 0 1).wellFormed = false := by decide
theorem test_wf_cld_vsel3 : (Instr.cld 3).wellFormed = false := by decide
theorem test_wf_cst_vsel3 : (Instr.cst 3).wellFormed = false := by decide

/-! ### Decoding: words of spec/95_test_vectors.md 2.1, fields written out from R91 -/

theorem test_decode_nop : decode 0x00000000 = .ok .nop := by decide
theorem test_decode_sreset : decode 0x00000001 = .ok .sreset := by decide
/-- CSR = 0x014 in bits 31:20. -/
theorem test_decode_csrw : decode 0x01400008 = .ok (.csrw 0x014) := by decide
theorem test_decode_csrr : decode 0x00700009 = .ok (.csrr 0x007) := by decide
/-- GRP = 3 in bits 19:18, EW = 1 in bits 17:16. -/
theorem test_decode_vlreq : decode 0x000D0010 = .ok (.vlreq 1 3) := by decide
theorem test_decode_cld : decode 0x00000420 = .ok (.cld 1) := by decide
theorem test_decode_cst : decode 0x00000821 = .ok (.cst 2) := by decide
theorem test_decode_sld : decode 0x00000322 = .ok (.sld 3) := by decide
theorem test_decode_czero : decode 0x0000F030 = .ok (.czero 0xF) := by decide
/-- ROW = 3 in bits 9:8, VSEL[0] = 1 in bit 10. -/
theorem test_decode_cmac : decode 0x00000731 = .ok (.cmac 3 1) := by decide
theorem test_decode_wb : decode 0x00000338 = .ok (.wb 3) := by decide
theorem test_decode_mm2 : decode 0x00000040 = .ok .mm2 := by decide
theorem test_decode_mm4 : decode 0x00000041 = .ok .mm4 := by decide
theorem test_decode_mm : decode 0x00000042 = .ok .mm := by decide

theorem test_illegal_opcode : decode 0x00000002 = .error .unassignedOpcode := by decide
theorem test_illegal_bit31 : decode 0x80000001 = .error .nonzeroUnusedBits := by decide
theorem test_illegal_rb_bit11 : decode 0x00000831 = .error .nonzeroUnusedBits := by decide
theorem test_illegal_vlreq_ew0 : decode 0x00000010 = .error .reservedOperand := by decide
theorem test_illegal_cld_vsel3 : decode 0x00000C20 = .error .reservedOperand := by decide

theorem test_encode_cmac : encode (.cmac 3 1) = 0x00000731 := by decide
theorem test_encode_vlreq : encode (.vlreq 1 3) = 0x000D0010 := by decide
theorem test_encode_csrw : encode (.csrw 0x014) = 0x01400008 := by decide

/-! ### Sample states -/

/-- The smallest engine: VLEN = 64, AW = 32, every request admitted. -/
def small : Config.Params := { vlenExp := 0, aw := .aw32, refused := [] }

/-- The smallest engine with a memory that refuses to write one word, at 0x2010. -/
def readable : Config.Params :=
  { vlenExp := 0, aw := .aw32, refused := [{ kind := .write, base := 0x2010, size := 4, width := .w32 }] }

/-- The smallest engine with a memory that refuses to read and to write that word. -/
def holed : Config.Params :=
  { readable with refused := { kind := .read, base := 0x2010, size := 4, width := .w32 } :: readable.refused }

/-- An engine with blank slots, a format and a negotiated configuration, executing a record. -/
def sample (p : Config.Params) (fmt vl : Word) (vsew vgrp : BitVec 2) (cmd : Word) (opA : DWord) : State :=
  { State.powerOn p (Vector.replicate 4 (.blank p)) (Vector.replicate 2 (.blank p)) (.blank p)
      (Vector.replicate 4 { re := 0, im := 0 }) with
    fmt := fmt, vl := vl, vsew := vsew, vgrp := vgrp, vlvalid := true
    port := { cmd := cmd, opA := opA, opB := 0 } }

theorem sample_inv {p : Config.Params} {fmt vl : Word} {vsew vgrp : BitVec 2} (cmd : Word) (opA : DWord)
    (h1 : legalFmt fmt = true) (h2 : vsew ≠ 0) (h3 : vl.toNat ≤ vlmax p vsew vgrp) :
    (sample p fmt vl vsew vgrp cmd opA).Inv where
  memWf := rfl
  memInSpace := by intro c hc; exact absurd hc (List.not_mem_nil)
  accSized := by intro r; simp [LanePair.sized, State.accRow, sample, State.powerOn, LanePair.blank]
  slotSized := by
    intro n; cases n <;> simp [LanePair.sized, State.slot, sample, State.powerOn, LanePair.blank]
  fmtLegal := .inr h1
  cbaseInSpace := Nat.two_pow_pos _
  abaseInSpace := Nat.two_pow_pos _
  bbaseInSpace := Nat.two_pow_pos _
  faddrInSpace := Nat.two_pow_pos _
  unnegotiated := by intro h; exact absurd h (by simp [sample])
  negotiated := fun _ => ⟨h2, h3⟩
  faultCause := by simp [sample, State.powerOn]
  faultEvidence := fun _ => rfl
  faultAddress := fun _ _ => rfl

/-- A memory that refuses nothing admits every access. -/
theorem admits_all {s : State} (h : s.params.refused = []) (kind : RequestKind) (f : Format) (a n : Nat) :
    s.admitsElements kind f a n := by
  intro i _; simp [State.admits, h]

/-- The state in which the host's next command has the given word. -/
def asked (s : State) (cmd : Word) (opA : DWord) : State :=
  { s with inputs := [.command { cmd := cmd, opA := opA, opB := 0 }] }

/-- The next state, if there is one. -/
def after (o : Host.Outcome State Fault Refusal) : Option State :=
  match o with
  | .next t => some t
  | .fault _ => none
  | .refused _ => none

/-- The newest response. -/
def answer (o : Host.Outcome State Fault Refusal) : Option Response := (after o).bind fun t => t.responses.head?

/-- Single format, VL = 1 at e32. -/
def single (cmd : Word) (opA : DWord) : State := sample small 2 1 2 0 cmd opA

/-- `single` with three lane contents of the example of 42_cmac.md R153: coefficient 1+2i, buffer 3+4i. -/
def product : State :=
  let s := single 0x00000031 0
  (s.setScalRow 0 { re := 0x3F800000, im := 0x40000000 }).setSlot (.bbuf 0)
    ((s.slot (.bbuf 0)).setElement .w32 0 0x40400000#32 0x40800000#32)

/-- The accumulator −5+10i and the memory 1+1i of the example of 44_writeback.md R201. -/
def summed : State :=
  let s := single 0x00000038 0x3000
  { s.setAccRow 0 ((s.accRow 0).setElement .w32 0 0xC0A00000#32 0x41200000#32) with
    mem := [(0x3002, 0x80), (0x3003, 0x3F), (0x3006, 0x80), (0x3007, 0x3F)] }

/-! ### One step of each command: the examples of its rule -/

theorem test_nop : answer (step (asked .reset 0x00000000 0)) = some { data := 0, fault := false } := by decide
theorem test_sreset : (after (exec .sreset { State.reset with fault := true, cause := .vcfgMismatch })).map
    (fun t => (t.fault, t.cause, t.responses)) = some (false, .none, [{ data := 0, fault := false }]) := by decide
/-- R214: `csrw FMT, 0x0D`. -/
theorem test_csrw_fmt : (after (step (asked .reset 0x00000008 0x0D))).map (fun t => t.fmt) = some 0x0D := by
  decide
theorem test_csrw_illegal_fmt : (after (step (asked .reset 0x00000008 0x07))).map
    (fun t => (t.fmt, t.cause, t.fcmd)) = some (0, .illegalCfg, 0x00000008) := by decide
/-- R215: `csrr IMPL` with VLEN = 128, AW = 32. -/
theorem test_csrr_impl : answer (step (asked .reset 0x00700009 0)) =
    some { data := 0x0000002000000080, fault := false } := by decide
theorem test_csrr_unimplemented : (after (step (asked .reset 0x00800009 0))).map (fun t => (t.cause, t.fault)) =
    some (.illegalCsr, true) := by decide
/-- R123: `vlreq e32, g1, 7` grants 4; VCFG then reads 0x12. -/
theorem test_vlreq : (after (step (asked .reset 0x00020010 7))).map (fun t => (t.vl, t.vcfgWord)) =
    some (4, 0x12) := by decide
theorem test_vlreq_zero : answer (step (asked .reset 0x00020010 0)) = some { data := 0, fault := false } := by decide
/-- R134: memory at 0x1008 holds 0 + 1i. -/
theorem test_sld : (after (exec (.sld 1) { single 0x00000122 0x1008 with
    mem := [(0x100E, 0x80), (0x100F, 0x3F)] })).map (fun t => t.scalRow 1) =
      some { re := 0, im := 0x000000003F800000 } := by decide
theorem test_sld_misaligned : (after (exec (.sld 1) (single 0x00000122 0x100A))).map
    (fun t => (t.cause, t.faddr, t.fcmd)) = some (.misaligned, 0x100A, 0x00000122) := by decide
/-- R132: one element of the example. -/
theorem test_cld : (after (exec (.cld 0) { single 0x00000020 0x2000 with
    mem := [(0x2002, 0x80), (0x2003, 0x3F)] })).map
      (fun t => (Slot.lane (t.slot (.bbuf 0)).re .w32 0, Slot.lane (t.slot (.bbuf 0)).im .w32 0)) =
        some (0x3F800000, 0) := by decide
theorem test_cld_refused : (after (exec (.cld 0) (sample holed 2 2 2 0 0x20 0x2008))).map
    (fun t => (t.cause, t.faddr, t.trace.length)) = some (.accessFault, 0x2010, 3) := by decide
/-- R133: the lane stored little-endian, real part first. -/
theorem test_cst : (after (exec (.cst 0) { product with port := { cmd := 0x21, opA := 0x3000, opB := 0 } })).map
    (fun t => t.mem) = some [(0x3002, 0x40), (0x3003, 0x40), (0x3006, 0x80), (0x3007, 0x40)] := by decide
theorem test_cst_unnegotiated : (after (exec (.cst 0) { single 0x21 0x3000 with vlvalid := false })).map
    (fun t => (t.cause, t.mem)) = some (.vcfgMismatch, []) := by decide
/-- R152: lane 0 of the rows in the mask is cleared, no other. -/
theorem test_czero : (after (exec (.czero 0b0001) summed)).map
    (fun t => (Slot.lane (t.accRow 0).re .w32 0, Slot.lane (t.accRow 0).im .w32 0)) = some (0, 0) := by decide
theorem test_czero_masked_out : (after (exec (.czero 0b1110) summed)).map
    (fun t => Slot.lane (t.accRow 0).re .w32 0) = some 0xC0A00000 := by decide
set_option exponentiation.threshold 600 in
/-- R153: (1+2i)(3+4i) = −5+10i. -/
theorem test_cmac : (after (exec (.cmac 0 0) product)).map
    (fun t => (Slot.lane (t.accRow 0).re .w32 0, Slot.lane (t.accRow 0).im .w32 0)) =
      some (0xC0A00000, 0x41200000) := by decide
/-- R201: 1+1i plus −5+10i is −4+11i. -/
theorem test_wb : (after (exec (.wb 0) summed)).map
    (fun t => (t.mem.readValue (2 ^ 32) 0x3000 4, t.mem.readValue (2 ^ 32) 0x3004 4)) =
      some (0xC0800000#32, 0x41300000#32) := by decide

set_option exponentiation.threshold 600 in
/-- R151: i · 1 = i, whose imaginary part is +1. -/
theorem test_cmac_imaginary_unit : cmacLane .w32 0#32 0x3F800000#32 0x3F800000#32 0#32 0#32 0#32 =
    (0#32, 0x3F800000#32) := by decide
/-- R201: the reads are admitted, the write of element 1 is refused: element 0 is written, WBS holds the sums. -/
theorem test_wb_write_refused : (after (exec (.wb 0) (sample readable 2 2 2 0 0x38 0x2008))).map
    (fun t => (t.cause, t.faddr, t.trace.length)) = some (.accessFault, 0x2010, 7) := by decide

/-- A job of one row, one index and one column: A = 1+2i at 0x1000, B = 3+4i at 0x2000, C = 1+1i at 0x3000. -/
def job : State :=
  { single 0x00000040 0 with
    abase := 0x1000, bbase := 0x2000, cbase := 0x3000
    dimM := 1, dimN := 1, dimP := 1, mEnd := 1, pEnd := 1
    mem := [(0x1002, 0x80), (0x1003, 0x3F), (0x1007, 0x40), (0x2002, 0x40), (0x2003, 0x40), (0x2006, 0x80),
      (0x2007, 0x40), (0x3002, 0x80), (0x3003, 0x3F), (0x3006, 0x80), (0x3007, 0x3F)] }

set_option maxRecDepth 8000 in
set_option exponentiation.threshold 600 in
/-- R185 with one product: C becomes 1+1i + (−5+10i). -/
theorem test_mm2 : (after (exec .mm2 job)).map
    (fun t => (t.mem.readValue (2 ^ 32) 0x3000 4, t.mem.readValue (2 ^ 32) 0x3004 4)) =
      some (0xC0800000#32, 0x41300000#32) := by decide
/-- R182, R40: RBF and the cursors. -/
theorem test_mm4 : (after (exec .mm4 job)).map (fun t => (t.rbf, t.pCur, t.mCur, t.nCur)) =
    some (true, 1, 1, 1) := by decide
/-- R210: without FMT the ranges are not written. -/
theorem test_mm_unconfigured : (after (exec .mm { job with fmt := 0, mEnd := 7 })).map (fun t => (t.cause, t.mEnd)) =
    some (.illegalCfg, 7) := by decide
theorem test_mm_writes_ranges : (after (exec .mm { job with dimM := 0, mStart := 5 })).map
    (fun t => (t.mStart, t.mEnd, t.pEnd, t.trace)) = some (0, 0, 1, []) := by decide

/-! ### The host's questions: each row of the table is the first command after reset -/

theorem test_first_command_runs : answer (step (State.reset.withFetchWord 32 0x00020010)) =
    some { data := 0, fault := false } := by decide
theorem test_first_command_decodes : decodeTableWord 32 0x00000731 = some (.cmac 3 1) := by decide

/-! ### Witnesses: the hypotheses of each statement, met together -/

theorem test_witness_DecodeEncodeRoundTrip : (Instr.vlreq 3 3).wellFormed = true := by decide
theorem test_witness_DecodedWordIsItsEncoding : decode 0xFFF00008 = .ok (.csrw 0xFFF) := by decide

/-- Each ground of R95 has a word: unassigned, an unused bit, EW = 0, VSEL = 3. -/
theorem test_witness_IllegalWordRaisesIllegalCmd :
    (asked .reset 0xFF 0).fault = false ∧ illegalWord 0xFF ∧ illegalWord 0x100 ∧ illegalWord 0x10 ∧
      illegalWord 0xC21 ∧ ¬ illegalWord 0x821 := by
  unfold illegalWord; decide

theorem test_witness_StepRunsDecodedCommand :
    (asked .reset 0x38 0).inputs = [.command { cmd := 0x38, opA := 0, opB := 0 }] ∧
      decode 0x38 = .ok (.wb 0) := by decide
theorem test_witness_IdleKeepsState : State.reset.inputs = [] := rfl
theorem test_witness_OneResponsePerCommand :
    ∃ t, (asked .reset 0x00700009 0).inputs = [.command { cmd := 0x00700009, opA := 0, opB := 0 }] ∧
      step (asked .reset 0x00700009 0) = .next t := ⟨_, rfl, rfl⟩

theorem csrTable_first : ((0x000 : BitVec 12), (0 : DWord)) ∈ State.reset.csrTable := by
  simp [State.csrTable, State.reset, State.powerOn]
theorem csrTable_last : ((0x01C : BitVec 12), (0 : DWord)) ∈ State.reset.csrTable := by
  simp [State.csrTable, State.reset, State.powerOn]
theorem csrTable_past (d : DWord) : ((0x01D : BitVec 12), d) ∉ State.reset.csrTable := by
  simp [State.csrTable]

/-- With a fault recorded: a read of the first and of the last register, SRESET, and commands that are
refused, among them a read of a number past the table. -/
theorem test_witness_FaultStateRefusesOthers :
    ({ State.reset with fault := true, inputs := [.command { cmd := 0x9, opA := 0, opB := 0 }] } : State).fault = true ∧
    decode 0x00000009 = .ok (.csrr 0x000) ∧ (0x000, 0) ∈ State.reset.csrTable ∧
    decode 0x01C00009 = .ok (.csrr 0x01C) ∧ (0x01C, 0) ∈ State.reset.csrTable ∧
    decode 0x00000001 = .ok .sreset ∧
    decode 0x00000000 ≠ .ok .sreset ∧
    decode 0x01D00009 = .ok (.csrr 0x01D) ∧ (∀ d, (0x01D, d) ∉ State.reset.csrTable) :=
  ⟨rfl, by decide, csrTable_first, by decide, csrTable_last, by decide, by decide, by decide, csrTable_past⟩

theorem test_witness_FaultEntryRecordsCommand :
    ∃ t, State.reset.fault = false ∧ exec (.csrw 0x001) .reset = .next t ∧ t.fault = true := ⟨_, rfl, rfl, rfl⟩
theorem test_witness_FaultsArePrecise :
    ∃ t, State.reset.fault = false ∧ ¬ isJob (.csrw 0x001) ∧ exec (.csrw 0x001) .reset = .next t ∧
      t.fault = true ∧ t.cause ≠ .accessFault := ⟨_, rfl, by unfold isJob; decide, rfl, rfl, by decide⟩
theorem test_witness_FaultClearedOnlyByReset :
    ∃ t, ({ asked .reset 0x1 0 with fault := true } : State).fault = true ∧
      step { asked .reset 0x1 0 with fault := true } = .next t ∧ t.fault = false := ⟨_, rfl, rfl, rfl⟩

theorem test_witness_NopAnswersZero :
    (0x100 : Word).extractLsb' 0 8 = 0 ∧ (0x100 : Word).extractLsb' 8 24 ≠ 0 ∧ State.reset.fault = false := by decide
theorem test_witness_SresetRestoresReset :
    (0x80000001 : Word).extractLsb' 0 8 = 1 ∧ (0x80000001 : Word).extractLsb' 8 24 ≠ 0 ∧
      (asked .reset 0x80000001 0).fault = false ∧
      ({ asked .reset 0x80000001 0 with fault := true } : State).fault = true := by decide
/-- A read-only number, the numbers next to the writable ranges, an illegal and a legal value of FMT. -/
theorem test_witness_CsrwWritesRegister :
    State.reset.fault = false ∧ (0x001 : BitVec 12) ∉ writableCsrs ∧ (0x00F : BitVec 12) ∉ writableCsrs ∧
      (0x01A : BitVec 12) ∉ writableCsrs ∧ legalFmt ((0x1C : DWord).setWidth 32) = false ∧
      legalFmt ((0xFFFFFFFF0000001B : DWord).setWidth 32) = true := by decide
theorem test_witness_CsrrAnswersRegister :
    (0x000, 0) ∈ State.reset.csrTable ∧ (0x01C, 0) ∈ State.reset.csrTable ∧
      (∀ d, (0x01D, d) ∉ State.reset.csrTable) ∧ State.reset.fault = false :=
  ⟨csrTable_first, csrTable_last, csrTable_past, rfl⟩
theorem test_witness_FormatOfFmt : legalFmt 0x16 = true ∧ legalFmt 0x1B = true := by decide
theorem test_witness_ConfigurationWrittenOnlyBy :
    ∃ t, exec .nop .reset = .next t ∧ Instr.nop ≠ .sreset ∧ (∀ ew grp, Instr.nop ≠ .vlreq ew grp) ∧
      ¬ isJob .nop ∧ (∀ csr, Instr.nop ≠ .csrw csr) ∧ Instr.nop ≠ .mm ∧ ∀ r, Instr.nop ≠ .sld r :=
  ⟨_, rfl, by decide, by simp, by simp [isJob], by simp, by decide, by simp⟩
theorem test_witness_ParametersAreFixed : ∃ t, step State.reset = .next t := ⟨_, rfl⟩

theorem test_witness_VlreqNegotiates :
    State.reset.fault = false ∧ (3 : BitVec 2) ≠ 0 ∧ (0x00000010 : Word).extractLsb' 0 8 = 0x10 ∧
      (0x00000010 : Word).extractLsb' 16 2 = 0 ∧ (0x00120010 : Word) &&& 0xFFF0FF00 ≠ 0 := by decide
theorem test_witness_GrantBounds : (1 : BitVec 2) ≠ 0 ∧ 0 < 1 := by decide
theorem test_witness_SweepCoversLength : (3 : BitVec 2) ≠ 0 := by decide
theorem test_witness_ToggleKeepsLength : (2 : BitVec 2) ≠ 0 ∧ (2 : BitVec 2) ≠ 3 := by decide

/-- Each of the three checks fails on some state while those before it pass. -/
theorem test_witness_ChecksInOrder :
    (single 0x20 0x2002).fault = false ∧ (Instr.cld 0).wellFormed = true ∧ usesFormat (.cld 0) ∧
    (State.reset.fmt.extractLsb' 0 2 = 0) ∧
    ∃ f, (single 0x20 0x2002).format = some f ∧ laneCheck f (.cld 0) = some (2, false) ∧
      (single 0x20 0x2002).vcfgFits f 2 false ∧ addressesElements (.cld 0) ∧
      (single 0x20 0x2002).addrOperand % f.eb ≠ 0 ∧
      ¬ (sample small 2 1 1 0 0x20 0).vcfgFits f 2 false :=
  ⟨rfl, by decide, .inl (.inl ⟨0, rfl⟩), by decide, _, rfl, rfl, by unfold State.vcfgFits; decide, .inl ⟨0, rfl⟩,
    by decide, by unfold State.vcfgFits; decide⟩

theorem test_witness_CldLoadsLanes :
    ∃ f, (single 0x20 0x2000).Inv ∧ (single 0x20 0x2000).fault = false ∧ (single 0x20 0x2000).format = some f ∧
      (single 0x20 0x2000).vcfgFits f f.storage.code false ∧
      ((2 : BitVec 2), SlotName.wbs) ∈ [((0 : BitVec 2), SlotName.bbuf 0), (1, .bbuf 1), (2, .wbs)] ∧
      (single 0x20 0x2000).addrOperand % f.eb = 0 ∧
      (single 0x20 0x2000).admitsElements .read f (single 0x20 0x2000).addrOperand (single 0x20 0x2000).vl.toNat :=
  ⟨_, sample_inv _ _ (by decide) (by decide) (by decide), rfl, rfl, by unfold State.vcfgFits; decide, by decide,
    by decide, admits_all rfl _ _ _ _⟩

/-- The same state and operands serve CST and the round trip. -/
theorem test_witness_CstStoresLanes :
    ∃ f, (single 0x21 0xFFFFFFFC).Inv ∧ (single 0x21 0xFFFFFFFC).fault = false ∧
      (single 0x21 0xFFFFFFFC).format = some f ∧
      (single 0x21 0xFFFFFFFC).vcfgFits f f.storage.code false ∧
      ((1 : BitVec 2), SlotName.bbuf 1) ∈ [((0 : BitVec 2), SlotName.bbuf 0), (1, .bbuf 1), (2, .wbs)] ∧
      (single 0x21 0xFFFFFFFC).addrOperand % f.eb = 0 ∧
      (single 0x21 0xFFFFFFFC).admitsElements .write f (single 0x21 0xFFFFFFFC).addrOperand
        (single 0x21 0xFFFFFFFC).vl.toNat :=
  ⟨_, sample_inv _ _ (by decide) (by decide) (by decide), rfl, rfl, by unfold State.vcfgFits; decide, by decide,
    by decide, admits_all rfl _ _ _ _⟩

theorem test_witness_LoadThenStoreRestoresMemory :
    ∃ f, (single 0x20 0x2000).Inv ∧ (single 0x20 0x2000).fault = false ∧ (single 0x20 0x2000).format = some f ∧
      (single 0x20 0x2000).vcfgFits f f.storage.code false ∧ (2 : BitVec 2) ≠ 3 ∧
      (single 0x20 0x2000).addrOperand % f.eb = 0 ∧
      (∀ kind, (single 0x20 0x2000).admitsElements kind f (single 0x20 0x2000).addrOperand (single 0x20 0x2000).vl.toNat) :=
  ⟨_, sample_inv _ _ (by decide) (by decide) (by decide), rfl, rfl, by unfold State.vcfgFits; decide, by decide,
    by decide, fun _ => admits_all rfl _ _ _ _⟩

/-- Element 1 at 0x2008 has its real part refused; element 0 at 0x200C its imaginary part. The same states
serve CLD and CST. -/
theorem test_witness_CldAccessFault :
    ∃ f, (sample holed 2 2 2 0 0x20 0x2008).Inv ∧ (sample holed 2 2 2 0 0x20 0x2008).fault = false ∧
      (sample holed 2 2 2 0 0x20 0x2008).format = some f ∧
      (sample holed 2 2 2 0 0x20 0x2008).vcfgFits f f.storage.code false ∧
      ((0 : BitVec 2), SlotName.bbuf 0) ∈ [((0 : BitVec 2), SlotName.bbuf 0), (1, .bbuf 1), (2, .wbs)] ∧
      (sample holed 2 2 2 0 0x20 0x2008).addrOperand % f.eb = 0 ∧
      1 < (sample holed 2 2 2 0 0x20 0x2008).vl.toNat ∧
      (sample holed 2 2 2 0 0x20 0x2008).admitsElements .read f 0x2008 1 ∧
      (sample holed 2 2 2 0 0x20 0x2008).admits .read
        ((sample holed 2 2 2 0 0x20 0x2008).reAddr f 0x2008 1) f.storage = false ∧
      (sample holed 2 1 2 0 0x20 0x200C).Inv ∧
      (sample holed 2 1 2 0 0x20 0x200C).admits .read
        ((sample holed 2 1 2 0 0x20 0x200C).reAddr f 0x200C 0) f.storage = true ∧
      (sample holed 2 1 2 0 0x20 0x200C).admits .read
        ((sample holed 2 1 2 0 0x20 0x200C).imAddr f 0x200C 0) f.storage = false :=
  ⟨_, sample_inv _ _ (by decide) (by decide) (by decide), rfl, rfl, by unfold State.vcfgFits; decide, by decide,
    by decide, by decide, by unfold State.admitsElements; decide, by decide,
    sample_inv _ _ (by decide) (by decide) (by decide), by decide, by decide⟩

theorem test_witness_CstAccessFault :
    ∃ f, (sample holed 2 2 2 0 0x21 0x2008).Inv ∧ (sample holed 2 2 2 0 0x21 0x2008).fault = false ∧
      (sample holed 2 2 2 0 0x21 0x2008).format = some f ∧
      (sample holed 2 2 2 0 0x21 0x2008).vcfgFits f f.storage.code false ∧
      ((2 : BitVec 2), SlotName.wbs) ∈ [((0 : BitVec 2), SlotName.bbuf 0), (1, .bbuf 1), (2, .wbs)] ∧
      (sample holed 2 2 2 0 0x21 0x2008).addrOperand % f.eb = 0 ∧
      1 < (sample holed 2 2 2 0 0x21 0x2008).vl.toNat ∧
      (sample holed 2 2 2 0 0x21 0x2008).admitsElements .write f 0x2008 1 ∧
      (sample holed 2 2 2 0 0x21 0x2008).admits .write
        ((sample holed 2 2 2 0 0x21 0x2008).reAddr f 0x2008 1) f.storage = false ∧
      (sample holed 2 1 2 0 0x21 0x200C).Inv ∧
      (sample holed 2 1 2 0 0x21 0x200C).admits .write
        ((sample holed 2 1 2 0 0x21 0x200C).reAddr f 0x200C 0) f.storage = true ∧
      (sample holed 2 1 2 0 0x21 0x200C).admits .write
        ((sample holed 2 1 2 0 0x21 0x200C).imAddr f 0x200C 0) f.storage = false :=
  ⟨_, sample_inv _ _ (by decide) (by decide) (by decide), rfl, rfl, by unfold State.vcfgFits; decide, by decide,
    by decide, by decide, by unfold State.admitsElements; decide, by decide,
    sample_inv _ _ (by decide) (by decide) (by decide), by decide, by decide⟩

/-- Each clause of SLD: misaligned, admitted, the real part refused, the imaginary part refused. -/
theorem test_witness_SldLoadsCoefficient :
    ∃ f, (sample holed 2 0 2 0 0x22 0x2002).fault = false ∧ (sample holed 2 0 2 0 0x22 0x2002).format = some f ∧
      (sample holed 2 0 2 0 0x22 0x2002).addrOperand % f.eb ≠ 0 ∧
      (sample holed 2 0 2 0 0x22 0x2008).addrOperand % f.eb = 0 ∧
      (sample holed 2 0 2 0 0x22 0x2008).admitsElements .read f 0x2008 1 ∧
      (sample holed 2 0 2 0 0x22 0x2010).admits .read ((sample holed 2 0 2 0 0x22 0x2010).reAddr f 0x2010 0) f.storage =
        false ∧
      (sample holed 2 0 2 0 0x22 0x200C).admits .read ((sample holed 2 0 2 0 0x22 0x200C).reAddr f 0x200C 0) f.storage =
        true ∧
      (sample holed 2 0 2 0 0x22 0x200C).admits .read ((sample holed 2 0 2 0 0x22 0x200C).imAddr f 0x200C 0) f.storage =
        false :=
  ⟨_, rfl, rfl, by decide, by decide, by unfold State.admitsElements; decide, by decide, by decide, by decide⟩

/-- A widened format, negotiated wide for CZERO. -/
theorem test_witness_CzeroClearsLanes :
    ∃ f, (sample small 5 2 2 1 0x30 0).Inv ∧ (sample small 5 2 2 1 0x30 0).fault = false ∧
      (sample small 5 2 2 1 0x30 0).format = some f ∧ f.widen = true ∧
      (sample small 5 2 2 1 0x30 0).vcfgFits f f.acc.code false ∧
      (0b0101 : BitVec 4).getLsbD (2 : BitVec 2).toNat = true ∧
      (0b0101 : BitVec 4).getLsbD (3 : BitVec 2).toNat = false :=
  ⟨_, sample_inv _ _ (by decide) (by decide) (by decide), rfl, rfl, rfl, by unfold State.vcfgFits; decide,
    by decide, by decide⟩

/-- The largest grouping a widened storage-governed command runs at, at the longest length. -/
theorem test_witness_CmacAccumulates :
    ∃ f, (sample small 5 16 1 2 0x31 0).Inv ∧ (sample small 5 16 1 2 0x31 0).fault = false ∧
      (sample small 5 16 1 2 0x31 0).format = some f ∧
      (sample small 5 16 1 2 0x31 0).vcfgFits f f.storage.code true :=
  ⟨_, sample_inv _ _ (by decide) (by decide) (by decide), rfl, rfl, by unfold State.vcfgFits; decide⟩

theorem test_witness_WbAddsRow :
    ∃ f, (single 0x38 0x3000).Inv ∧ (single 0x38 0x3000).fault = false ∧ (single 0x38 0x3000).format = some f ∧
      (single 0x38 0x3000).vcfgFits f f.storage.code true ∧ (single 0x38 0x3000).addrOperand % f.eb = 0 ∧
      (∀ kind, (single 0x38 0x3000).admitsElements kind f (single 0x38 0x3000).addrOperand (single 0x38 0x3000).vl.toNat) :=
  ⟨_, sample_inv _ _ (by decide) (by decide) (by decide), rfl, rfl, by unfold State.vcfgFits; decide,
    by decide, fun _ => admits_all rfl _ _ _ _⟩

/-- Each clause: the real and the imaginary part of a read refused; every read admitted and the real or the
imaginary part of a write refused. -/
theorem test_witness_WbAccessFault :
    ∃ f, (sample holed 2 2 2 0 0x38 0x2008).Inv ∧ (sample holed 2 2 2 0 0x38 0x2008).fault = false ∧
      (sample holed 2 2 2 0 0x38 0x2008).format = some f ∧
      (sample holed 2 2 2 0 0x38 0x2008).vcfgFits f f.storage.code true ∧
      (sample holed 2 2 2 0 0x38 0x2008).addrOperand % f.eb = 0 ∧
      1 < (sample holed 2 2 2 0 0x38 0x2008).vl.toNat ∧
      (sample holed 2 2 2 0 0x38 0x2008).admitsElements .read f 0x2008 1 ∧
      (sample holed 2 2 2 0 0x38 0x2008).admits .read
        ((sample holed 2 2 2 0 0x38 0x2008).reAddr f 0x2008 1) f.storage = false ∧
      (sample holed 2 1 2 0 0x38 0x200C).Inv ∧
      (sample holed 2 1 2 0 0x38 0x200C).admits .read
        ((sample holed 2 1 2 0 0x38 0x200C).reAddr f 0x200C 0) f.storage = true ∧
      (sample holed 2 1 2 0 0x38 0x200C).admits .read
        ((sample holed 2 1 2 0 0x38 0x200C).imAddr f 0x200C 0) f.storage = false :=
  ⟨_, sample_inv _ _ (by decide) (by decide) (by decide), rfl, rfl, by unfold State.vcfgFits; decide,
    by decide, by decide, by unfold State.admitsElements; decide, by decide,
    sample_inv _ _ (by decide) (by decide) (by decide), by decide, by decide⟩
theorem test_witness_WbAccessFault_writes :
    ∃ f, (sample readable 2 2 2 0 0x38 0x2008).Inv ∧ (sample readable 2 2 2 0 0x38 0x2008).format = some f ∧
      (sample readable 2 2 2 0 0x38 0x2008).vcfgFits f f.storage.code true ∧
      (sample readable 2 2 2 0 0x38 0x2008).admitsElements .read f 0x2008 2 ∧
      (sample readable 2 2 2 0 0x38 0x2008).admitsElements .write f 0x2008 1 ∧
      (sample readable 2 2 2 0 0x38 0x2008).admits .write
        ((sample readable 2 2 2 0 0x38 0x2008).reAddr f 0x2008 1) f.storage = false ∧
      (sample readable 2 1 2 0 0x38 0x200C).Inv ∧
      (sample readable 2 1 2 0 0x38 0x200C).admitsElements .read f 0x200C 1 ∧
      (sample readable 2 1 2 0 0x38 0x200C).admits .write
        ((sample readable 2 1 2 0 0x38 0x200C).reAddr f 0x200C 0) f.storage = true ∧
      (sample readable 2 1 2 0 0x38 0x200C).admits .write
        ((sample readable 2 1 2 0 0x38 0x200C).imAddr f 0x200C 0) f.storage = false :=
  ⟨_, sample_inv _ _ (by decide) (by decide) (by decide), rfl, by unfold State.vcfgFits; decide,
    by unfold State.admitsElements; decide, by unfold State.admitsElements; decide, by decide,
    sample_inv _ _ (by decide) (by decide) (by decide), by unfold State.admitsElements; decide, by decide,
    by decide⟩

theorem test_witness_MmDispatches :
    job.fault = false ∧ State.reset.fmt.extractLsb' 0 2 = 0 ∧ job.fmt.extractLsb' 0 2 ≠ 0 ∧
      ({ job with dimM := 4 } : State).dimM.toNat ≤ 4 ∧ ¬ ({ job with dimM := 5 } : State).dimM.toNat ≤ 4 := by decide

/-- Empty by its rows, empty by its columns, unconfigured. -/
theorem test_witness_EmptyJobDoesNothing :
    job.fault = false ∧ jobOf job .mm2 = some (2, job) ∧ State.reset.fmt.extractLsb' 0 2 = 0 ∧
      job.fmt.extractLsb' 0 2 ≠ 0 ∧
      ({ job with mStart := 1 } : State).mEnd.toNat ≤ ({ job with mStart := 1 } : State).mStart.toNat ∧
      ({ job with pEnd := 0 } : State).pEnd.toNat ≤ ({ job with pEnd := 0 } : State).pStart.toNat :=
  ⟨rfl, rfl, by decide, by decide, by decide, by decide⟩

/-- The format of `job`. -/
def jobFormat : Format := { storage := .w32, acc := .w32, widen := false, grp := 0 }

theorem job_wellFormed : job.WellFormedJob jobFormat where
  legal := by decide
  format := rfl
  dimN := by decide
  dimP := by decide
  rows := by decide
  columns := by decide
  leading := by decide
  aFits := by decide
  bFits := by decide
  cFits := by decide
  aAligned := by decide
  bAligned := by decide
  cAligned := by decide

theorem job_admitted : job.JobAdmitted jobFormat where
  a _ _ _ _ _ := admits_all rfl _ _ _ _
  b _ _ _ _ _ := admits_all rfl _ _ _ _
  c _ _ _ _ := admits_all rfl _ _ _ _

theorem job_rows {i j : Nat} (h : job.inRanges i j) : i = 0 ∧ j = 0 := by
  obtain ⟨_, h2, _, h4⟩ := h
  have e1 : job.mEnd.toNat = 1 := rfl
  have e2 : job.pEnd.toNat = 1 := rfl
  omega

theorem job_writesC {x : Nat} (h : job.writesC jobFormat x) : 0x3000 ≤ x := by
  obtain ⟨i, j, hij, k, hk, rfl⟩ := h
  obtain ⟨rfl, rfl⟩ := job_rows hij
  have e1 : job.addrC jobFormat 0 0 = 0x3000 := by decide
  have e2 : job.space = 4294967296 := by decide
  have e3 : 2 * 1 * jobFormat.eb = 8 := by decide
  rw [e1, e2]; omega

theorem job_disjoint : job.JobDisjoint jobFormat where
  a i k x _ h2 h3 hx hc := by
    have e1 : job.mEnd.toNat = 1 := rfl
    have e2 : job.dimN.toNat = 1 := rfl
    obtain rfl : i = 0 := by omega
    obtain rfl : k = 0 := by omega
    obtain ⟨b, hb, rfl⟩ := hx
    have := job_writesC hc
    rw [show job.addrA jobFormat 0 0 = 0x1000 by decide, show job.space = 4294967296 by decide] at this
    rw [show 2 * 1 * jobFormat.eb = 8 by decide] at hb
    omega
  b k j x h1 _ h3 hx hc := by
    have e1 : job.pEnd.toNat = 1 := rfl
    have e2 : job.dimN.toNat = 1 := rfl
    obtain rfl : j = 0 := by omega
    obtain rfl : k = 0 := by omega
    obtain ⟨b, hb, rfl⟩ := hx
    have := job_writesC hc
    rw [show job.addrB jobFormat 0 0 = 0x2000 by decide, show job.space = 4294967296 by decide] at this
    rw [show 2 * 1 * jobFormat.eb = 8 by decide] at hb
    omega

theorem job_inv : job.Inv where
  memWf := by decide
  memInSpace := by decide
  accSized := (sample_inv (p := small) (vl := 1) (vsew := 2) (vgrp := 0) 0 0 (fmt := 2) (by decide) (by decide)
    (by decide)).accSized
  slotSized n := by
    have := (sample_inv (p := small) (vl := 1) (vsew := 2) (vgrp := 0) 0 0 (fmt := 2) (by decide) (by decide)
      (by decide)).slotSized n
    cases n <;> exact this
  fmtLegal := by decide
  cbaseInSpace := by decide
  abaseInSpace := by decide
  bbaseInSpace := by decide
  faddrInSpace := by decide
  unnegotiated := by decide
  negotiated := by decide
  faultCause := by decide
  faultEvidence := by decide
  faultAddress := by decide

theorem test_witness_JobCompletes :
    job.fault = false ∧ jobOf job .mm4 = some (4, job) ∧ (∃ u, jobOf job .mm = some (2, u)) ∧
      job.WellFormedJob jobFormat ∧ job.JobAdmitted jobFormat ∧
      job.mStart.toNat < job.mEnd.toNat ∧ job.pStart.toNat < job.pEnd.toNat ∧ 2 ≤ (3 : BitVec 2).toNat :=
  ⟨rfl, rfl, ⟨_, rfl⟩, job_wellFormed, job_admitted, by decide, by decide, by decide⟩

theorem test_witness_JobComputesProduct :
    job.Inv ∧ job.fault = false ∧ jobOf job .mm2 = some (2, job) ∧ job.WellFormedJob jobFormat ∧
      job.JobAdmitted jobFormat ∧ job.JobDisjoint jobFormat ∧ job.inRanges 0 0 ∧ ¬ job.writesC jobFormat 0 :=
  ⟨job_inv, rfl, rfl, job_wellFormed, job_admitted, job_disjoint, by unfold State.inRanges; decide,
    fun h => absurd (job_writesC h) (by decide)⟩

theorem test_witness_RowBlockIndependence :
    ∃ t u, job.Inv ∧ job.fault = false ∧ job.WellFormedJob jobFormat ∧ job.JobAdmitted jobFormat ∧
      job.JobDisjoint jobFormat ∧ exec .mm2 job = .next t ∧ exec .mm4 job = .next u :=
  ⟨_, _, job_inv, rfl, job_wellFormed, job_admitted, job_disjoint, rfl, rfl⟩

/-- `job` on a memory that refuses one request. -/
def jobRefused (kind : RequestKind) (base : Nat) : State :=
  { job with params := { small with refused := [{ kind := kind, base := base, size := 4, width := .w32 }] } }

/-- Each cause: FMT not configured; the base of B, of A, of C not aligned; a read of A refused. -/
theorem test_witness_JobFaultCauses :
    (∃ t, jobOf .reset .mm = some (2, State.reset) ∧ exec .mm .reset = .next t ∧ t.fault = true ∧
      t.cause = .illegalCfg) ∧
    (∃ t, exec .mm2 { job with bbase := 0x2002 } = .next t ∧ t.cause = .misaligned ∧ t.faddr = 0x2002) ∧
    (∃ t, exec .mm2 { job with abase := 0x1002 } = .next t ∧ t.cause = .misaligned ∧ t.faddr = 0x1002) ∧
    ∃ t, jobOf (jobRefused .read 0x1004) .mm4 = some (4, jobRefused .read 0x1004) ∧
      exec .mm4 (jobRefused .read 0x1004) = .next t ∧ t.fault = true ∧ t.cause = .accessFault ∧ t.faddr = 0x1004 :=
  ⟨⟨_, rfl, rfl, rfl, rfl⟩, ⟨_, rfl, rfl, rfl⟩, ⟨_, rfl, rfl, rfl⟩, ⟨_, rfl, rfl, rfl, rfl, rfl⟩⟩
set_option maxRecDepth 8000 in
set_option exponentiation.threshold 600 in
/-- The base of C not aligned, and a write of C refused after its reads. -/
theorem test_witness_JobFaultCauses_writeback :
    (after (exec .mm2 { job with cbase := 0x3002 })).map (fun t => (t.cause, t.faddr)) =
      some (.misaligned, 0x3002) ∧
    (after (exec .mm2 (jobRefused .write 0x3004))).map (fun t => (t.cause, t.faddr, t.trace.length)) =
      some (.accessFault, 0x3004, 8) := by decide

set_option maxRecDepth 8000 in
set_option exponentiation.threshold 600 in
/-- The one block of `job` completes. -/
theorem test_witness_BlockRequestCounts : job.dimN ≠ 0 ∧ ∃ t, jobBlock none jobFormat 1 job = .done t :=
  ⟨by decide, _, rfl⟩

theorem test_witness_RequestsAreLittleEndian :
    job.admits .read 0xFFFFFFFC .w64 = true ∧ job.admits .write 0xFFFFFFFC .w64 = true := by decide
theorem test_witness_RequestsAreElementSized : ∃ t, exec (.sld 0) (single 0x22 0) = .next t := ⟨_, rfl⟩
theorem test_witness_MemoryIsReplayOfWrites : ∃ t, exec (.cst 0) (single 0x21 0) = .next t := ⟨_, rfl⟩
theorem test_witness_OnlyStoresChangeMemory :
    ∃ t, exec (.cld 0) (single 0x20 0) = .next t ∧ (∀ v, Instr.cld 0 ≠ .cst v) ∧ (∀ r, Instr.cld 0 ≠ .wb r) ∧
      ¬ isJob (.cld 0) := ⟨_, rfl, by simp, by simp, by simp [isJob]⟩
theorem test_witness_OpBIsIgnored :
    ∃ t, step { State.reset with inputs := [.command { cmd := 0, opA := 0, opB := 0 }] } = .next t := ⟨_, rfl⟩
theorem test_witness_HardwareReset :
    ({ State.reset with inputs := [.reset .warm] } : State).inputs = [.reset .warm] := rfl
/-- A warm reset inside CLD of two elements. -/
def cutLoad (requests work : Nat) : State :=
  { sample small 2 2 2 0 0 0 with
    inputs := [.resetDuring .warm { cmd := 0x20, opA := 0x2000, opB := 0 } requests work]
    mem := [(0x2002, 0x80), (0x2003, 0x3F), (0x200B, 0x40)] }

/-- Nothing done; three requests and one element; everything done; a command that writes no slot. -/
theorem test_witness_ResetInterruptsCommand :
    (cutLoad 0 0).inputs = [.resetDuring .warm { cmd := 0x20, opA := 0x2000, opB := 0 } 0 0] ∧
    (cutLoad 4 5).inputs = [.resetDuring .warm { cmd := 0x20, opA := 0x2000, opB := 0 } 4 5] ∧
    (after (step { cutLoad 4 5 with inputs := [.command { cmd := 0x20, opA := 0x2000, opB := 0 }] })).map
      (fun t => t.trace.length) = some 4 ∧
    decode 0x22 = .ok (.sld 0) ∧ ¬ isJob (.sld 0) ∧ (∀ m, Instr.sld 0 ≠ .czero m) ∧
    (∀ r b, Instr.sld 0 ≠ .cmac r b) ∧ (∀ v, Instr.sld 0 ≠ .cld v) ∧ (∀ r, Instr.sld 0 ≠ .wb r) ∧
    decode 0x20 = .ok (.cld 0) ∧ ∀ r, Instr.cld 0 ≠ .sld r :=
  ⟨rfl, rfl, by decide, by decide, by simp [isJob], by simp, by simp, by simp, by simp, by decide, by simp⟩
/-- R291 with U9: after a warm reset in the middle of a load, the lanes loaded before it are kept. -/
theorem test_reset_within_load : (after (step (cutLoad 3 3))).map
    (fun t => (t.trace.length, t.vl, t.responses.length, Slot.lane (t.slot (.bbuf 0)).re .w32 0,
      Slot.lane (t.slot (.bbuf 0)).re .w32 1)) = some (3, 0, 0, 0x3F800000, 0) := by decide
theorem test_witness_PowerOnRegisters : ((0x000 : BitVec 12), (0 : DWord)) ∈ State.reset.csrTable := csrTable_first
theorem test_witness_StepKeepsInvariant : ∃ t, job.Inv ∧ step job = .next t := ⟨_, job_inv, rfl⟩

/-- Below and at the threshold of overflow, for half numbers of the smallest step. -/
theorem test_witness_RoundsToNearestEven :
    Width.w16.scale ≤ 24 ∧
    (2 ^ (Width.w16.fracBits + 2) - 1) * 2 ^ (Width.w16.expOnes - 2) * 2 ^ (24 - Width.w16.scale) ≤ 2 * (4095 * 2 ^ 28) ∧
    2 * (4095 * 2 ^ 28 - 1) < (2 ^ (Width.w16.fracBits + 2) - 1) * 2 ^ (Width.w16.expOnes - 2) *
      2 ^ (24 - Width.w16.scale) := by decide

/-- 1·2 + 1 = 3 and −(1·2) + 1 = −1 in half; the exact sums of the second part, 3, −1 and 3; a single subnormal
to narrow. -/
theorem test_witness_FusedExactResult :
    fpValue .w16 0x3C00#16 = .fin false (2 ^ 24) ∧ fpValue .w16 0x4000#16 = .fin false (2 ^ 25) ∧
    fpValue .w16 0x4200#16 = .fin false (3 * 2 ^ 24) ∧ fpValue .w16 0xBC00#16 = .fin true (2 ^ 24) ∧
    signed (false != false) (2 ^ 24 * 2 ^ 25) + signed false (2 ^ 24 * 2 ^ 24) = signed false (3 * 2 ^ 24 * 2 ^ 24) ∧
    signed (false == false) (2 ^ 24 * 2 ^ 25) + signed false (2 ^ 24 * 2 ^ 24) = signed true (2 ^ 24 * 2 ^ 24) ∧
    signed false (3 * 2 ^ 24 * 2 ^ 24) ≠ 0 ∧ signed true (2 ^ 24 * 2 ^ 24) ≠ 0 ∧
    signed false (2 ^ 24) + signed false (2 ^ 25) = 3 * 2 ^ 24 ∧
    Width.w16 ≠ .w64 ∧ fpValue .w32 0x80000001#32 = .fin true 1 := by
  decide
theorem test_witness_FnmaFlipsProductSign : fpValue .w16 0x8000#16 ≠ .nan ∧ fpValue .w16 0x7C01#16 = .nan := by decide
theorem test_witness_PromoteIsExact :
    Width.w16 ≠ .w64 ∧ fpValue .w16 0xFFFF#16 = .nan ∧ fpValue .w16 0xFC00#16 = .inf true ∧
      fpValue .w16 0x8001#16 = .fin true 1 ∧ fpValue .w16 0xFC00#16 ≠ .nan := by decide
theorem test_witness_NaNResultsAreCanonical :
    fpValue .w16 (fma .w16 0x7C00#16 0x0000#16 0x0000#16) = .nan ∧
      fpValue .w16 (fnma .w16 0x7C00#16 0x3C00#16 0x7C00#16) = .nan ∧
      fpValue .w16 (fadd .w16 0x7C00#16 0xFC00#16) = .nan ∧
      fpValue .w32 (promote .w16 .w32 0x7C01#16) = .nan ∧
      fpValue .w16 (narrow .w32 .w16 0x7F800001#32) = .nan := by decide
/-- Operands of each case: a NaN; infinity and zero; an infinite product with either infinity and with a finite
value; a finite product and an infinity; the narrowed ones. -/
theorem test_witness_NaNResultsAreCanonical_cases :
    fpValue .w16 0x7C01#16 = .nan ∧ (fpValue .w16 0x7C00#16).isInf = true ∧ (fpValue .w16 0x8000#16).isZero = true ∧
      (fpValue .w16 0x7C00#16).hasSign false ∧ (fpValue .w16 0x8001#16).hasSign true ∧
      fpValue .w16 0x7C00#16 = .inf (!((false != true) != false)) ∧
      fpValue .w16 0xFC00#16 = .inf ((false != true) != false) ∧ (fpValue .w16 0x8000#16).isFinite = true ∧
      Width.w16 ≠ .w64 ∧ fpValue .w32 0xFFFFFFFF#32 = .nan ∧ fpValue .w32 0xFF800000#32 = .inf true :=
  ⟨by decide, by decide, by decide, .inl (by decide), .inr ⟨1, by decide, by decide⟩, by decide, by decide,
    by decide, by decide, by decide, by decide⟩
/-- −0 + −0, (−0)·1 + −0, −(0·1) + −0, and terms that cancel. -/
theorem test_witness_ExactZeroSign :
    fpValue .w16 0x8000#16 = .fin true 0 ∧ fpValue .w16 0x3C00#16 = .fin false (2 ^ 24) ∧
      signed true 0 + signed true 0 = 0 ∧
      signed (true != false) (0 * 2 ^ 24) + signed true (0 * 2 ^ 24) = 0 ∧
      signed (false == false) (0 * 2 ^ 24) + signed true (0 * 2 ^ 24) = 0 ∧
      signed false (2 ^ 24) + signed true (2 ^ 24) = 0 := by decide

end Sys2Proof.Tests
end

section
/-! What a step does with each kind of input, and what no step changes: the parameters of the implementation
(spec/00_scope.md R8, spec/10_state.md R20). Every operation keeps them, so every command run to its end or cut by a
reset does. -/

namespace Sys2Proof.Machine

/-! ### The step, one equation per kind of input -/

section
variable {s : State} {rest : List Input}

theorem step_idle (h : s.inputs = []) : step s = .next s := by
  simp only [step, State.takeInput, h]

theorem step_command {c : Command} (h : s.inputs = .command c :: rest) :
    step s = ({ s with inputs := rest } : State).accept c := by
  simp only [step, State.takeInput, h]

theorem step_external {a : Nat} {b : Byte} (h : s.inputs = .external a b :: rest) :
    step s = .next { s with inputs := rest, mem := s.mem.write (a % s.space) b } := by
  simp only [step, State.takeInput, h]

theorem step_reset {k : ResetKind} (h : s.inputs = .reset k :: rest) :
    step s = .next (({ s with inputs := rest } : State).hardReset k) := by
  simp only [step, State.takeInput, h]

theorem step_resetDuring {k : ResetKind} {c : Command} {n m : Nat}
    (h : s.inputs = .resetDuring k c n m :: rest) :
    step s = .next (({ s with inputs := rest } : State).resetWithin k c n m) := by
  simp only [step, State.takeInput, h]

/-- An accepted record whose word decodes runs the command (30_encoding.md R95). -/
theorem accept_ok {c : Command} {i : Instr} (h : decode c.cmd = .ok i) :
    s.accept c = exec i { s with port := c } := by
  simp only [State.accept, h]

/-- An accepted record whose word is illegal raises `IllegalCmd` (30_encoding.md R95). -/
theorem accept_error {c : Command} {e : DecodeError} (h : decode c.cmd = .error e) :
    s.accept c = .next (({ s with port := c } : State).raiseFault .illegalCmd 0) := by
  simp only [State.accept, h]

end

/-- Settles O6, by the equations of the step and of the acceptance of a record. -/
theorem stepRunsDecodedCommand : Obligations.StepRunsDecodedCommand := by
  intro s c rest i hinputs hdecode
  rw [step_command hinputs, accept_ok hdecode]

/-! ### Requests that may be cut -/

/-- Everything a read request can do: it is cut, answered with data, or refused. -/
theorem memRead_cases (s : State) (stop : Option Nat) (a : Nat) (w : Width) :
    (stop = some s.trace.length ∧ s.memRead stop a w = .cut s) ∨
    (stop ≠ some s.trace.length ∧ s.admits .read a w = true ∧
      s.memRead stop a w = .data (s.loadValue a w) (s.logRequest (s.readRequest a w))) ∨
    (stop ≠ some s.trace.length ∧ s.admits .read a w = false ∧
      s.memRead stop a w = .error (s.logRequest (refusedRead a w))) := by
  by_cases hstop : stop = some s.trace.length
  · exact .inl ⟨hstop, if_pos hstop⟩
  · cases hadmits : s.admits .read a w with
    | true => exact .inr (.inl ⟨hstop, rfl, (if_neg hstop).trans (if_pos hadmits)⟩)
    | false => exact .inr (.inr ⟨hstop, rfl, (if_neg hstop).trans (if_neg (by simp [hadmits]))⟩)

/-- Everything a write request can do: it is cut, done, or refused. -/
theorem memWrite_cases (s : State) (stop : Option Nat) (a : Nat) (w : Width) (v : BitVec w.bits) :
    (stop = some s.trace.length ∧ s.memWrite stop a w v = .cut s) ∨
    (stop ≠ some s.trace.length ∧ s.admits .write a w = true ∧
      s.memWrite stop a w v =
        .done { s.logRequest (writeRequest a w v) with mem := s.mem.writeValue s.space a w.bytes v }) ∨
    (stop ≠ some s.trace.length ∧ s.admits .write a w = false ∧
      s.memWrite stop a w v = .raised .accessFault a (s.logRequest (refusedWrite a w v))) := by
  by_cases hstop : stop = some s.trace.length
  · exact .inl ⟨hstop, if_pos hstop⟩
  · have huncut : s.memWrite stop a w v = s.memWrite none a w v := by simp [State.memWrite, hstop]
    cases hadmits : s.admits .write a w with
    | true => exact .inr (.inl ⟨hstop, rfl, huncut.trans (memWrite_ok hadmits v)⟩)
    | false => exact .inr (.inr ⟨hstop, rfl, huncut.trans (memWrite_refused hadmits v)⟩)

/-! ### The parameters through the shared operations -/

section
variable (s : State) (stop : Option Nat) (f : Format)

@[simp] theorem raiseFault_params (c : Cause) (n : Nat) : (s.raiseFault c n).params = s.params := by
  rw [raiseFault_frame]

@[simp] theorem finish_params (m : Micro) : m.finish.params = m.state.params := by
  cases m <;> simp

/-- A sequence keeps the parameters its first part leaves, if every continuation keeps them. -/
theorem andThen_params {m : Micro} {k : State → Micro} (hk : ∀ u, (k u).state.params = u.params) :
    (m.andThen k).state.params = m.state.params := by
  cases m with
  | done u => exact hk u
  | raised c n u => rfl
  | cut u => rfl

theorem unlessFaulted_params {s : State} {run : State → State} (h : (run s).params = s.params) :
    (s.unlessFaulted run).params = s.params := by
  cases hf : s.fault with
  | true => rw [unlessFaulted_faulted hf, refuse_params]
  | false => rw [unlessFaulted_running hf, h]

theorem needFormat_params {s : State} {k : Format → Micro} (hk : ∀ f, (k f).state.params = s.params) :
    (s.needFormat k).state.params = s.params := by
  cases hf : s.format with
  | none => rw [needFormat_none hf, state_raised]
  | some f => rw [needFormat_some hf, hk]

theorem needVcfg_params {s : State} {m : Micro} (hm : m.state.params = s.params) (c : BitVec 2) (g : Bool) :
    (s.needVcfg f c g m).state.params = s.params := by
  cases hv : s.vcfgOk f c g with
  | true => rw [needVcfg_ok hv, hm]
  | false => rw [needVcfg_mismatch hv, state_raised]

theorem needAligned_params {s : State} {m : Micro} (hm : m.state.params = s.params) (a : Nat) :
    (s.needAligned f a m).state.params = s.params := by
  by_cases ha : a % f.eb = 0
  · rw [needAligned_ok ha, hm]
  · rw [needAligned_misaligned ha, state_raised]

@[simp] theorem czero_params (w : Width) (mask : BitVec 4) : (s.czero w mask).params = s.params := by
  rw [czero_frame]

@[simp] theorem memWrite_params (a : Nat) (w : Width) (v : BitVec w.bits) :
    (s.memWrite stop a w v).state.params = s.params := by
  rcases memWrite_cases s stop a w v with ⟨-, h⟩ | ⟨-, -, h⟩ | ⟨-, -, h⟩ <;> simp [h]

/-! ### The parameters through loads and stores -/

@[simp] theorem loadElement_params (d : SlotName) (a i : Nat) :
    (loadElement stop f d a i s).state.params = s.params := by
  unfold loadElement
  rcases memRead_cases s stop (s.reAddr f a i) f.storage with ⟨-, h⟩ | ⟨-, -, h⟩ | ⟨-, -, h⟩
  · simp [h]
  · rw [h]
    rcases memRead_cases (s.logRequest (s.readRequest (s.reAddr f a i) f.storage)) stop
      (State.imAddr (s.logRequest (s.readRequest (s.reAddr f a i) f.storage)) f a i) f.storage
      with ⟨-, h'⟩ | ⟨-, -, h'⟩ | ⟨-, -, h'⟩ <;> simp [h']
  · simp [h]

@[simp] theorem loadElements_params (d : SlotName) (a n : Nat) :
    (loadElements stop f d a n s).state.params = s.params := by
  induction n with
  | zero => rfl
  | succ n ih => exact (andThen_params fun u => loadElement_params u stop f d a n).trans ih

@[simp] theorem vload_params (d : SlotName) (a : Nat) : (vload stop f d a s).state.params = s.params := by
  refine needAligned_params f ?_ a
  have h := loadElements_params s stop f d a s.vl.toNat
  cases hm : loadElements stop f d a s.vl.toNat s with
  | done u => rwa [hm] at h
  | raised c n u =>
    rw [hm] at h
    exact (freeTarget_params u f d).trans h
  | cut u => rwa [hm] at h

@[simp] theorem storeElement_params (d : SlotName) (a i : Nat) :
    (storeElement stop f d a i s).state.params = s.params :=
  (andThen_params fun u => memWrite_params u stop _ _ _).trans (memWrite_params s stop _ _ _)

@[simp] theorem storeElements_params (d : SlotName) (a n : Nat) :
    (storeElements stop f d a n s).state.params = s.params := by
  induction n with
  | zero => rfl
  | succ n ih => exact (andThen_params fun u => storeElement_params u stop f d a n).trans ih

@[simp] theorem vstore_params (d : SlotName) (a : Nat) : (vstore stop f d a s).state.params = s.params :=
  needAligned_params f (storeElements_params s stop f d a _) a

@[simp] theorem sload_params (r : BitVec 2) (a : Nat) : (sload stop f r a s).state.params = s.params := by
  refine needAligned_params f ?_ a
  rcases memRead_cases s stop (s.reAddr f a 0) f.storage with ⟨-, h⟩ | ⟨-, -, h⟩ | ⟨-, -, h⟩
  · simp [h]
  · rw [h]
    rcases memRead_cases (s.logRequest (s.readRequest (s.reAddr f a 0) f.storage)) stop
      (State.imAddr (s.logRequest (s.readRequest (s.reAddr f a 0) f.storage)) f a 0) f.storage
      with ⟨-, h'⟩ | ⟨-, -, h'⟩ | ⟨-, -, h'⟩ <;> simp [h']
  · simp [h]

@[simp] theorem writeback_params (r : BitVec 2) (d : Nat) : (writeback stop f r d s).state.params = s.params := by
  refine (andThen_params fun u => ?_).trans (vload_params s stop f .wbs d)
  rw [vstore_params]

/-! ### The parameters through a job -/

theorem forRows_params {op : BitVec 2 → State → Micro} (hop : ∀ r u, (op r u).state.params = u.params) (n : Nat) :
    (forRows op n s).state.params = s.params := by
  induction n with
  | zero => rfl
  | succ n ih => exact (andThen_params (hop (BitVec.ofNat 2 n))).trans ih

@[simp] theorem jobInit_params (rows : Nat) : (jobInit stop f rows s).state.params = s.params := by
  cases h : f.widen <;> simp [jobInit, h]

@[simp] theorem jobPrefetch_params : (jobPrefetch stop f s).state.params = s.params := by
  unfold jobPrefetch
  split <;> simp

@[simp] theorem jobHalf_params (rows : Nat) : (jobHalf stop f rows s).state.params = s.params := by
  have hcoefficients := forRows_params s (op := jobCoefficient stop f) (fun r u => sload_params u stop f r _) rows
  have hcmac u := forRows_params u (op := jobCmac f) (fun r u => cmac_params u f r u.cur) rows
  have hadvance u : (Micro.done (State.advanceIndex u)).state.params = u.params := advanceIndex_params u
  unfold jobHalf
  rw [andThen_params hadvance, andThen_params hcmac, andThen_params fun u => jobPrefetch_params u stop f,
    hcoefficients]

@[simp] theorem jobSteady_params (rows n : Nat) : (jobSteady stop f rows n s).state.params = s.params := by
  induction n generalizing s with
  | zero => rfl
  | succ n ih =>
    refine (andThen_params fun u => ?_).trans (jobHalf_params s stop f rows)
    split
    · rfl
    · exact ih u

@[simp] theorem jobBlock_params (rows : Nat) : (jobBlock stop f rows s).state.params = s.params := by
  have hwriteback u := forRows_params u (op := jobWriteback stop f) (fun r u => writeback_params u stop f r _) rows
  unfold jobBlock
  rw [andThen_params hwriteback, andThen_params fun u => jobSteady_params u stop f rows _, jobInit_params]

@[simp] theorem jobBlocks_params (rb n : Nat) : (jobBlocks stop f rb n s).state.params = s.params := by
  induction n generalizing s with
  | zero => rfl
  | succ n ih =>
    refine (andThen_params fun u => ?_).trans (jobBlock_params s stop f _)
    dsimp only
    split
    · rfl
    · exact ih _

@[simp] theorem jobTiles_params (rb n : Nat) : (jobTiles stop f rb n s).state.params = s.params := by
  induction n generalizing s with
  | zero => rfl
  | succ n ih =>
    refine (andThen_params fun u => ?_).trans (jobBlocks_params { s with mCur := s.mStart } stop f rb _)
    dsimp only
    split
    · rfl
    · exact ih _

@[simp] theorem jobRun_params (rb : Nat) : (jobRun stop f rb s).state.params = s.params := by
  unfold jobRun
  dsimp only
  split
  · rfl
  · exact jobTiles_params _ stop f rb _

/-! ### The parameters through each command, run to its end or cut -/

@[simp] theorem runCld_params (vsel : BitVec 2) : (runCld stop vsel s).state.params = s.params := by
  unfold runCld
  split
  · rfl
  · exact needFormat_params fun f => needVcfg_params f (vload_params s stop f _ _) _ _

@[simp] theorem runCst_params (vsel : BitVec 2) : (runCst stop vsel s).state.params = s.params := by
  unfold runCst
  split
  · rfl
  · exact needFormat_params fun f => needVcfg_params f (vstore_params s stop f _ _) _ _

@[simp] theorem runSld_params (row : BitVec 2) : (runSld stop row s).state.params = s.params :=
  needFormat_params fun f => sload_params s stop f row _

@[simp] theorem runCzero_params (mask : BitVec 4) : (runCzero mask s).state.params = s.params :=
  needFormat_params fun f => needVcfg_params f (m := .done _) (czero_params s f.acc mask) _ _

@[simp] theorem runCmac_params (row : BitVec 2) (buf : BitVec 1) : (runCmac row buf s).state.params = s.params :=
  needFormat_params fun f => needVcfg_params f (m := .done _) (cmac_params s f row buf) _ _

@[simp] theorem runWb_params (row : BitVec 2) : (runWb stop row s).state.params = s.params :=
  needFormat_params fun f => needVcfg_params f (writeback_params s stop f row _) _ _

@[simp] theorem runMm2_params : (runMm2 stop s).state.params = s.params :=
  needFormat_params fun f => jobRun_params s stop f 2

@[simp] theorem runMm4_params : (runMm4 stop s).state.params = s.params :=
  needFormat_params fun f => jobRun_params s stop f 4

@[simp] theorem runMm_params : (runMm stop s).state.params = s.params :=
  needFormat_params fun f => jobRun_params s.fullRanges stop f s.dispatchFactor

@[simp] theorem csrWrite_params (r : Csr) : (s.csrWrite r).state.params = s.params := by
  cases r with
  | fmt => unfold State.csrWrite; dsimp only; split <;> rfl
  | _ => rfl

end

/-- A command refused in the fault state, or run to its end, keeps the parameters its rules keep. -/
theorem unlessFaulted_finish_params {s : State} {run : State → Micro} (h : (run s).state.params = s.params) :
    (s.unlessFaulted fun s => (run s).finish).params = s.params :=
  unlessFaulted_params ((finish_params _).trans h)

theorem exec_params {i : Instr} {s t : State} (h : exec i s = .next t) : t.params = s.params := by
  cases i with
  | nop => cases h; exact unlessFaulted_params (respond_params s 0)
  | sreset => cases h; exact softReset_params s
  | csrw csr =>
    cases h
    refine unlessFaulted_params ?_
    split <;> simp
  | csrr csr =>
    cases h
    split <;> simp
  | vlreq ew grp =>
    cases h
    refine unlessFaulted_params ?_
    split <;> simp
  | cld vsel => cases h; exact unlessFaulted_finish_params (runCld_params s none vsel)
  | cst vsel => cases h; exact unlessFaulted_finish_params (runCst_params s none vsel)
  | sld row => cases h; exact unlessFaulted_finish_params (runSld_params s none row)
  | czero mask => cases h; exact unlessFaulted_finish_params (runCzero_params s mask)
  | cmac row buf => cases h; exact unlessFaulted_finish_params (runCmac_params s row buf)
  | wb row => cases h; exact unlessFaulted_finish_params (runWb_params s none row)
  | mm2 => cases h; exact unlessFaulted_finish_params (runMm2_params s none)
  | mm4 => cases h; exact unlessFaulted_finish_params (runMm4_params s none)
  | mm => cases h; exact unlessFaulted_finish_params (runMm_params s none)

@[simp] theorem runUntil_params (i : Instr) (n : Nat) (s : State) : (runUntil i n s).state.params = s.params := by
  cases i <;> simp [runUntil]

/-! ### The parameters through each input -/

theorem accept_params {s t : State} {c : Command} (h : s.accept c = .next t) : t.params = s.params := by
  cases hd : decode c.cmd with
  | error e =>
    rw [accept_error hd] at h
    cases h
    exact raiseFault_params _ _ _
  | ok i =>
    rw [accept_ok hd] at h
    exact (exec_params h :)

@[simp] theorem progress_params (s : State) (k : Nat) : (s.progress k).params = s.params := by
  unfold State.progress
  split
  · rfl
  · split <;> simp

@[simp] theorem hardReset_params (s : State) (k : ResetKind) : (s.hardReset k).params = s.params := by
  cases k <;> simp [State.hardReset]

@[simp] theorem resetWithin_params (s : State) (k : ResetKind) (c : Command) (requests work : Nat) :
    (s.resetWithin k c requests work).params = s.params := by
  simp [State.resetWithin]

/-- Settles O21, by the kind of the next input: each keeps the parameters. -/
theorem parametersAreFixed : Obligations.ParametersAreFixed := by
  intro s t hstep
  cases hinputs : s.inputs with
  | nil =>
    rw [step_idle hinputs] at hstep
    cases hstep
    rfl
  | cons x rest =>
    cases x with
    | command c =>
      rw [step_command hinputs] at hstep
      exact (accept_params hstep :)
    | external a b =>
      rw [step_external hinputs] at hstep
      cases hstep
      rfl
    | reset k =>
      rw [step_reset hinputs] at hstep
      cases hstep
      exact hardReset_params _ k
    | resetDuring k c requests work =>
      rw [step_resetDuring hinputs] at hstep
      cases hstep
      exact resetWithin_params _ k c requests work

end Sys2Proof.Machine
end

section
/-! What a command can write. Between its acceptance and its answer every command but SRESET is a sequence of
elementary writes, each to one part of the state (spec/10_state.md R20 to R43, spec/20_memory.md R62, spec/40_vln.md
R122). Each operation of the model is shown to be such a sequence, once; what commands keep, and the invariant, then
need one look at each elementary write. -/

namespace Sys2Proof.Machine

/-! ### Elementary writes -/

/-- The parts of the state that a command can write, apart from the fault state and its answer. -/
inductive Part where
  /-- `ACC`, `BBUF` and `WBS` (10_state.md R23, R24, R26). -/
  | lanes
  /-- `SCAL` (R25). -/
  | coefficients
  | memory
  /-- The negotiated configuration (R29). -/
  | negotiation
  /-- `CUR`, `RBF` and the cursors of the scheduler (R34, R40). -/
  | cursors
  /-- FMT, the bases and the dimensions (R30, R37, R38). -/
  | registers
  /-- The row and column ranges (R39). -/
  | ranges

/-- Two lane pairs of the same number of bits. -/
def LanePair.SameSize (x y : LanePair) : Prop :=
  x.re.length = y.re.length ∧ x.im.length = y.im.length

/-- One write to a part that `W` lists, or to the model's own logs. -/
inductive Update (W : List Part) : State → State → Prop where
  | log (s : State) (r : Request) : Update W s (s.logRequest r)
  | draw (s : State) (n : Nat) : Update W s { s with draws := n }
  | slot (s : State) (d : SlotName) (x : LanePair) (hW : .lanes ∈ W) (hx : x.SameSize (s.slot d)) :
      Update W s (s.setSlot d x)
  | acc (s : State) (a : Vector LanePair 4) (hW : .lanes ∈ W)
      (ha : ∀ r, ({ s with acc := a } : State).accRow r |>.SameSize (s.accRow r)) :
      Update W s { s with acc := a }
  | scal (s : State) (r : BitVec 2) (c : Coefficient) (hW : .coefficients ∈ W) : Update W s (s.setScalRow r c)
  | store (s : State) (a : Nat) (w : Width) (v : BitVec w.bits) (hW : .memory ∈ W) :
      Update W s { s with mem := s.mem.writeValue s.space a w.bytes v }
  | negotiate (s : State) (rem : Nat) (ew grp : BitVec 2) (hW : .negotiation ∈ W) (hew : ew ≠ 0) :
      Update W s (s.negotiate rem ew grp)
  | cursors (s : State) (cur : BitVec 1) (rbf : Bool) (pCur mCur nCur : Word) (hW : .cursors ∈ W) :
      Update W s { s with cur := cur, rbf := rbf, pCur := pCur, mCur := mCur, nCur := nCur }
  | fmt (s : State) (v : Word) (hW : .registers ∈ W) (hv : legalFmt v = true) : Update W s { s with fmt := v }
  | bases (s : State) (c a b : DWord) (hW : .registers ∈ W)
      (hc : s.cbase.toNat < s.space → c.toNat < s.space) (ha : s.abase.toNat < s.space → a.toNat < s.space)
      (hb : s.bbase.toNat < s.space → b.toNat < s.space) :
      Update W s { s with cbase := c, abase := a, bbase := b }
  | dims (s : State) (m n p : Word) (hW : .registers ∈ W) : Update W s { s with dimM := m, dimN := n, dimP := p }
  | ranges (s : State) (mStart mEnd pStart pEnd : Word) (hW : .ranges ∈ W) :
      Update W s { s with mStart := mStart, mEnd := mEnd, pStart := pStart, pEnd := pEnd }

/-- Any number of such writes. -/
abbrev Effect (W : List Part) : State → State → Prop := Relation.ReflTransGen (Update W)

theorem Update.effect {W : List Part} {s t : State} (h : Update W s t) : Effect W s t := .single h

/-- A part of the state that no single write changes is not changed by any number of them. -/
theorem Effect.keeps {W : List Part} {α : Type} {s t : State} (g : State → α)
    (hg : ∀ u v, Update W u v → g v = g u) (h : Effect W s t) : g t = g s := by
  induction h with
  | refl => rfl
  | tail _ hstep ih => exact (hg _ _ hstep).trans ih

theorem Effect.params {W : List Part} {s t : State} (h : Effect W s t) : t.params = s.params :=
  h.keeps State.params fun u v hu => by cases hu <;> simp

theorem Effect.space {W : List Part} {s t : State} (h : Effect W s t) : t.space = s.space := by
  simp only [State.space, h.params]

/-! ### Operations as writes -/

/-- The operation, run from `s` up to request number `stop`, writes only parts of `W`; a fault it raises has a cause,
and the address it gives lies in the space of `2^AW` bytes; with no `stop` it is not cut. -/
def Micro.Does (W : List Part) (stop : Option Nat) (s : State) : Micro → Prop
  | .done t => Effect W s t
  | .raised c n t => Effect W s t ∧ c ≠ .none ∧ n < s.space
  | .cut t => Effect W s t ∧ stop ≠ none

section
variable {W : List Part} {stop : Option Nat} {s t : State} {m : Micro}

theorem Micro.Does.effect (h : m.Does W stop s) : Effect W s m.state := by
  cases m with
  | done u => exact h
  | raised c n u => exact h.1
  | cut u => exact h.1

/-- Writes made before an operation count with its own. -/
theorem Micro.Does.after (h : m.Does W stop t) (hst : Effect W s t) : m.Does W stop s := by
  cases m with
  | done u => exact hst.trans h
  | raised c n u =>
    obtain ⟨he, hc, hn⟩ := h
    exact ⟨hst.trans he, hc, hst.space ▸ hn⟩
  | cut u => exact ⟨hst.trans h.1, h.2⟩

theorem Micro.Does.andThen {k : State → Micro} (h : m.Does W stop s)
    (hk : ∀ u, Effect W s u → (k u).Does W stop u) : (m.andThen k).Does W stop s := by
  cases m with
  | done u => exact (hk u h).after h
  | raised c n u => exact h
  | cut u => exact h

theorem needFormat_does {k : Format → Micro} (hk : ∀ f, (k f).Does W stop s) : (s.needFormat k).Does W stop s := by
  cases hf : s.format with
  | none => rw [needFormat_none hf]; exact ⟨.refl, by decide, space_pos s⟩
  | some f => rw [needFormat_some hf]; exact hk f

theorem needVcfg_does (h : m.Does W stop s) (f : Format) (c : BitVec 2) (g : Bool) :
    (s.needVcfg f c g m).Does W stop s := by
  cases hv : s.vcfgOk f c g with
  | true => rwa [needVcfg_ok hv]
  | false => rw [needVcfg_mismatch hv]; exact ⟨.refl, by decide, space_pos s⟩

theorem needAligned_does {a : Nat} (ha : a < s.space) (h : m.Does W stop s) (f : Format) :
    (s.needAligned f a m).Does W stop s := by
  by_cases hal : a % f.eb = 0
  · rwa [needAligned_ok hal]
  · rw [needAligned_misaligned hal]; exact ⟨.refl, by decide, ha⟩

end

/-! ### Addresses lie in the space -/

theorem addrOperand_lt (s : State) : s.addrOperand < s.space := Nat.mod_lt _ (space_pos s)
theorem addrA_lt (s : State) (f : Format) (i k : Nat) : s.addrA f i k < s.space := Nat.mod_lt _ (space_pos s)
theorem addrB_lt (s : State) (f : Format) (k j : Nat) : s.addrB f k j < s.space := Nat.mod_lt _ (space_pos s)
theorem addrC_lt (s : State) (f : Format) (i j : Nat) : s.addrC f i j < s.space := Nat.mod_lt _ (space_pos s)

/-! ### Requests, loads and stores -/

theorem LanePair.SameSize.refl (x : LanePair) : x.SameSize x := ⟨rfl, rfl⟩

theorem setElement_sameSize (x : LanePair) (w : Width) (i : Nat) (re im : BitVec w.bits) :
    (x.setElement w i re im).SameSize x := ⟨setElement_length_re .., setElement_length_im ..⟩

theorem updateElements_sameSize (w : Width)
    (g : Nat → BitVec w.bits → BitVec w.bits → BitVec w.bits × BitVec w.bits) (n : Nat) (x : LanePair) :
    (updateElements w g n x).SameSize x := ⟨updateElements_length_re .., updateElements_length_im ..⟩

theorem free_sameSize (x : LanePair) (d n : Nat) : (x.free d n).SameSize x :=
  ⟨Slot.length_free .., Slot.length_free ..⟩

section
variable {W : List Part} (stop : Option Nat) (f : Format) (s : State)

theorem memWrite_does (hW : .memory ∈ W) {a : Nat} (ha : a < s.space) (w : Width) (v : BitVec w.bits) :
    (s.memWrite stop a w v).Does W stop s := by
  rcases memWrite_cases s stop a w v with ⟨hstop, h⟩ | ⟨-, -, h⟩ | ⟨-, -, h⟩ <;> rw [h]
  · exact ⟨.refl, by simp [hstop]⟩
  · exact (Update.log s _).effect.tail (.store (s.logRequest _) a w v hW)
  · exact ⟨(Update.log s _).effect, by decide, ha⟩

theorem loadElement_does (hW : .lanes ∈ W) (d : SlotName) (a i : Nat) :
    (loadElement stop f d a i s).Does W stop s := by
  unfold loadElement
  rcases memRead_cases s stop (s.reAddr f a i) f.storage with ⟨hstop, h⟩ | ⟨-, -, h⟩ | ⟨-, -, h⟩ <;> rw [h]
  · exact ⟨.refl, by simp [hstop]⟩
  · have hre := (Update.log (W := W) s (s.readRequest (s.reAddr f a i) f.storage)).effect
    generalize s.logRequest (s.readRequest (s.reAddr f a i) f.storage) = u at hre
    have him r := hre.tail (.log u r)
    rcases memRead_cases u stop (u.imAddr f a i) f.storage with ⟨hstop, h'⟩ | ⟨-, -, h'⟩ | ⟨-, -, h'⟩ <;>
      simp only [h']
    · exact ⟨hre, by simp [hstop]⟩
    · exact (him _).tail (.slot _ d _ hW (setElement_sameSize ..))
    · exact ⟨him _, by decide, hre.space ▸ imAddr_lt u f a i⟩
  · exact ⟨(Update.log s _).effect, by decide, reAddr_lt s f a i⟩

theorem loadElements_does (hW : .lanes ∈ W) (d : SlotName) (a n : Nat) :
    (loadElements stop f d a n s).Does W stop s := by
  induction n with
  | zero => exact .refl
  | succ n ih => exact ih.andThen fun u _ => loadElement_does stop f u hW d a n

theorem freeTarget_effect (hW : .lanes ∈ W) (d : SlotName) : Effect W s (s.freeTarget f d) :=
  (Update.slot s d _ hW (free_sameSize ..)).effect.tail (.draw _ _)

theorem vload_does (hW : .lanes ∈ W) (d : SlotName) {a : Nat} (ha : a < s.space) :
    (vload stop f d a s).Does W stop s := by
  refine needAligned_does ha ?_ f
  have h := loadElements_does stop f s hW d a s.vl.toNat
  cases hm : loadElements stop f d a s.vl.toNat s with
  | done u => rwa [hm] at h
  | raised c n u =>
    rw [hm] at h
    obtain ⟨he, hc, hn⟩ := h
    exact ⟨he.trans (freeTarget_effect f u hW d), hc, hn⟩
  | cut u => rwa [hm] at h

theorem storeElement_does (hW : .memory ∈ W) (d : SlotName) (a i : Nat) :
    (storeElement stop f d a i s).Does W stop s :=
  (memWrite_does stop s hW (reAddr_lt s f a i) _ _).andThen fun u _ =>
    memWrite_does stop u hW (imAddr_lt u f a i) _ _

theorem storeElements_does (hW : .memory ∈ W) (d : SlotName) (a n : Nat) :
    (storeElements stop f d a n s).Does W stop s := by
  induction n with
  | zero => exact .refl
  | succ n ih => exact ih.andThen fun u _ => storeElement_does stop f u hW d a n

theorem vstore_does (hW : .memory ∈ W) (d : SlotName) {a : Nat} (ha : a < s.space) :
    (vstore stop f d a s).Does W stop s :=
  needAligned_does ha (storeElements_does stop f s hW d a _) f

theorem freeScal_effect (hW : .coefficients ∈ W) (r : BitVec 2) : Effect W s (s.freeScal r) :=
  (Update.scal s r _ hW).effect.tail (.draw _ _)

theorem sload_does (hW : .coefficients ∈ W) (r : BitVec 2) {a : Nat} (ha : a < s.space) :
    (sload stop f r a s).Does W stop s := by
  refine needAligned_does ha ?_ f
  rcases memRead_cases s stop (s.reAddr f a 0) f.storage with ⟨hstop, h⟩ | ⟨-, -, h⟩ | ⟨-, -, h⟩ <;> rw [h]
  · exact ⟨.refl, by simp [hstop]⟩
  · have hre := (Update.log (W := W) s (s.readRequest (s.reAddr f a 0) f.storage)).effect
    generalize s.logRequest (s.readRequest (s.reAddr f a 0) f.storage) = u at hre
    have him r := hre.tail (.log u r)
    rcases memRead_cases u stop (u.imAddr f a 0) f.storage with ⟨hstop, h'⟩ | ⟨-, -, h'⟩ | ⟨-, -, h'⟩ <;>
      simp only [h']
    · exact ⟨hre, by simp [hstop]⟩
    · exact (him _).tail (.scal _ r _ hW)
    · exact ⟨(him _).trans (freeScal_effect _ hW r), by decide, hre.space ▸ imAddr_lt u f a 0⟩
  · exact ⟨(Update.log s _).effect.trans (freeScal_effect _ hW r), by decide, reAddr_lt s f a 0⟩

theorem writeback_does (hl : .lanes ∈ W) (hm : .memory ∈ W) (r : BitVec 2) {d : Nat} (hd : d < s.space) :
    (writeback stop f r d s).Does W stop s := by
  refine (vload_does stop f s hl .wbs hd).andThen fun u hu => ?_
  have hsum : Effect W u { u with wbs := addLanes f (u.accRow r) u.vl.toNat u.wbs } :=
    (Update.slot u .wbs _ hl (updateElements_sameSize ..)).effect
  exact (vstore_does stop f _ hm .wbs (by rwa [hsum.space, hu.space])).after hsum

end

/-! ### The accumulators -/

section
variable {W : List Part} (hW : .lanes ∈ W) (s : State)
include hW

theorem setAccRow_effect {r : BitVec 2} {x : LanePair} (hx : x.SameSize (s.accRow r)) :
    Effect W s (s.setAccRow r x) := by
  refine (Update.acc s _ hW fun q => ?_).effect
  change ((s.setAccRow r x).accRow q).SameSize _
  by_cases h : r = q
  · subst h; rwa [accRow_setAccRow_same]
  · rw [accRow_setAccRow_ne s x h]; exact .refl _

theorem zeroRow_effect (w : Width) (mask : BitVec 4) (r : BitVec 2) : Effect W s (s.zeroRow w mask r) := by
  unfold State.zeroRow
  split
  · exact setAccRow_effect hW s (updateElements_sameSize ..)
  · exact .refl

theorem czero_effect (w : Width) (mask : BitVec 4) : Effect W s (s.czero w mask) :=
  (((zeroRow_effect hW s w mask 0).trans (zeroRow_effect hW _ w mask 1)).trans
    (zeroRow_effect hW _ w mask 2)).trans (zeroRow_effect hW _ w mask 3)

theorem cmac_effect (f : Format) (r : BitVec 2) (b : BitVec 1) : Effect W s (s.cmac f r b) :=
  setAccRow_effect hW s (updateElements_sameSize ..)

end

/-! ### Jobs (43_scheduler.md R174 to R176) -/

/-- The state in which Init of a block, its lines I1 to I4 done, loads the first row of B (43_scheduler.md R176,
R177). -/
def State.blockStart (s : State) (f : Format) (rows : Nat) : State :=
  let t :=
    if f.widen then s.negotiate s.tileRemaining (f.storage.code + 1) (f.grp + 1)
    else s.negotiate s.tileRemaining f.storage.code f.grp
  let t := t.czero f.acc (BitVec.ofNat 4 (2 ^ rows - 1))
  { s.negotiate s.tileRemaining f.storage.code f.grp with acc := t.acc, cur := 0, nCur := 0 }

theorem jobInit_eq_vload (stop : Option Nat) (f : Format) (rows : Nat) (s : State) :
    jobInit stop f rows s =
      vload stop f (.bbuf 0) ((s.blockStart f rows).addrB f 0 s.pCur.toNat) (s.blockStart f rows) := by
  cases hw : f.widen with
  | true =>
    simp only [jobInit, State.blockStart, hw, if_true]
    rw [czero_frame]
    rfl
  | false =>
    simp only [jobInit, State.blockStart, hw, Bool.false_eq_true, if_false]
    rw [czero_frame]
    rfl

/-- The parts a job writes; MM writes the ranges besides. -/
def jobWrites : List Part := [.lanes, .coefficients, .memory, .negotiation, .cursors]

theorem code_ne_zero (w : Width) : w.code ≠ 0 := by cases w <;> decide

/-- Init clears lanes of the rows of the block and leaves the other rows alone. -/
theorem blockStart_accRow (s : State) (f : Format) (rows : Nat) (r : BitVec 2) :
    ∃ n, (s.blockStart f rows).accRow r =
      if (BitVec.ofNat 4 (2 ^ rows - 1)).getLsbD r.toNat = true then zeroLanes f.acc n (s.accRow r)
      else s.accRow r := by
  cases hw : f.widen <;> simp only [State.blockStart, hw] <;> exact ⟨_, czero_accRow ..⟩

theorem blockStart_effect (f : Format) (rows : Nat) (s : State) : Effect jobWrites s (s.blockStart f rows) := by
  have hnegotiate : Effect jobWrites s (s.negotiate s.tileRemaining f.storage.code f.grp) :=
    (Update.negotiate s _ _ _ (by simp [jobWrites]) (code_ne_zero _)).effect
  generalize hn : s.negotiate s.tileRemaining f.storage.code f.grp = n at hnegotiate
  have hacc : Update jobWrites n { n with acc := (s.blockStart f rows).acc } := by
    refine .acc n _ (by simp [jobWrites]) fun r => ?_
    obtain ⟨k, hrow⟩ := blockStart_accRow s f rows r
    change ((s.blockStart f rows).accRow r).SameSize (n.accRow r)
    rw [hrow, ← hn]
    split
    · exact updateElements_sameSize ..
    · exact .refl _
  have hcursors := Update.cursors (W := jobWrites) { n with acc := (s.blockStart f rows).acc } 0 n.rbf n.pCur n.mCur 0
    (by simp [jobWrites])
  have hstart : s.blockStart f rows = { n with acc := (s.blockStart f rows).acc, cur := 0, nCur := 0 } := by
    rw [← hn]; rfl
  rw [hstart]
  exact (hnegotiate.tail hacc).tail hcursors

section
variable (stop : Option Nat) (f : Format) (s : State)

theorem forRows_does {W : List Part} {stop : Option Nat} {op : BitVec 2 → State → Micro}
    (hop : ∀ r u, (op r u).Does W stop u) (n : Nat) :
    (forRows op n s).Does W stop s := by
  induction n with
  | zero => exact .refl
  | succ n ih => exact ih.andThen fun u _ => hop (BitVec.ofNat 2 n) u

theorem jobInit_does (rows : Nat) : (jobInit stop f rows s).Does jobWrites stop s := by
  rw [jobInit_eq_vload]
  exact (vload_does stop f _ (by simp [jobWrites]) _ (addrB_lt ..)).after (blockStart_effect f rows s)

theorem jobCoefficient_does (r : BitVec 2) : (jobCoefficient stop f r s).Does jobWrites stop s :=
  sload_does stop f s (by simp [jobWrites]) r (addrA_lt ..)

theorem jobPrefetch_does : (jobPrefetch stop f s).Does jobWrites stop s := by
  unfold jobPrefetch
  split
  · exact vload_does stop f s (by simp [jobWrites]) _ (addrB_lt ..)
  · exact .refl

theorem jobCmac_does (r : BitVec 2) : (jobCmac f r s).Does jobWrites stop s :=
  cmac_effect (by simp [jobWrites]) s f r s.cur

theorem advanceIndex_effect : Effect jobWrites s s.advanceIndex :=
  (Update.cursors s (1 - s.cur) s.rbf s.pCur s.mCur (s.nCur + 1) (by simp [jobWrites])).effect

theorem jobHalf_does (rows : Nat) : (jobHalf stop f rows s).Does jobWrites stop s :=
  (((forRows_does s (fun r u => jobCoefficient_does stop f u r) rows).andThen fun u _ =>
    jobPrefetch_does stop f u).andThen fun u _ =>
      forRows_does u (fun r u => jobCmac_does stop f u r) rows).andThen fun u _ => advanceIndex_effect u

theorem jobSteady_does (rows n : Nat) : (jobSteady stop f rows n s).Does jobWrites stop s := by
  induction n generalizing s with
  | zero => exact .refl
  | succ n ih =>
    refine (jobHalf_does stop f s rows).andThen fun u _ => ?_
    split
    · exact .refl
    · exact ih u

theorem jobWriteback_does (r : BitVec 2) : (jobWriteback stop f r s).Does jobWrites stop s :=
  writeback_does stop f s (by simp [jobWrites]) (by simp [jobWrites]) r (addrC_lt ..)

theorem jobBlock_does (rows : Nat) : (jobBlock stop f rows s).Does jobWrites stop s :=
  ((jobInit_does stop f s rows).andThen fun u _ => jobSteady_does stop f u rows _).andThen fun u _ =>
    forRows_does u (fun r u => jobWriteback_does stop f u r) rows

theorem jobBlocks_does (rb n : Nat) : (jobBlocks stop f rb n s).Does jobWrites stop s := by
  induction n generalizing s with
  | zero => exact .refl
  | succ n ih =>
    refine (jobBlock_does stop f s (s.blockRows rb)).andThen fun u _ => ?_
    have hnext : Effect jobWrites u { u with mCur := u.mCur + BitVec.ofNat 32 (s.blockRows rb) } :=
      (Update.cursors u u.cur u.rbf u.pCur _ u.nCur (by simp [jobWrites])).effect
    dsimp only
    split
    · exact hnext
    · exact (ih _).after hnext

theorem jobTiles_does (rb n : Nat) : (jobTiles stop f rb n s).Does jobWrites stop s := by
  induction n generalizing s with
  | zero => exact .refl
  | succ n ih =>
    have hstart : Effect jobWrites s { s with mCur := s.mStart } :=
      (Update.cursors s s.cur s.rbf s.pCur _ s.nCur (by simp [jobWrites])).effect
    refine ((jobBlocks_does stop f _ rb _).after hstart).andThen fun u _ => ?_
    have hnext : Effect jobWrites u { u with pCur := u.pCur + u.vl } :=
      (Update.cursors u u.cur u.rbf _ u.mCur u.nCur (by simp [jobWrites])).effect
    dsimp only
    split
    · exact hnext
    · exact (ih _).after hnext

theorem jobRun_does (rb : Nat) : (jobRun stop f rb s).Does jobWrites stop s := by
  have hfactor : Effect jobWrites s { s with rbf := rb == 4 } :=
    (Update.cursors s s.cur _ s.pCur s.mCur s.nCur (by simp [jobWrites])).effect
  have hstart : Effect jobWrites s { s with rbf := rb == 4, pCur := s.pStart } :=
    (Update.cursors s s.cur _ _ s.mCur s.nCur (by simp [jobWrites])).effect
  unfold jobRun
  dsimp only
  split
  · exact hfactor
  · exact (jobTiles_does stop f _ rb _).after hstart

end

/-! ### Commands -/

theorem Update.mono {W V : List Part} (hWV : W ⊆ V) {s t : State} (h : Update W s t) : Update V s t := by
  cases h with
  | log r => exact .log s r
  | draw n => exact .draw s n
  | slot d x hW hx => exact .slot s d x (hWV hW) hx
  | acc a hW ha => exact .acc s a (hWV hW) ha
  | scal r c hW => exact .scal s r c (hWV hW)
  | store a w v hW => exact .store s a w v (hWV hW)
  | negotiate rem ew grp hW hew => exact .negotiate s rem ew grp (hWV hW) hew
  | cursors cur rbf pCur mCur nCur hW => exact .cursors s cur rbf pCur mCur nCur (hWV hW)
  | fmt v hW hv => exact .fmt s v (hWV hW) hv
  | bases c a b hW hc ha hb => exact .bases s c a b (hWV hW) hc ha hb
  | dims m n p hW => exact .dims s m n p (hWV hW)
  | ranges mStart mEnd pStart pEnd hW => exact .ranges s mStart mEnd pStart pEnd (hWV hW)

theorem Effect.mono {W V : List Part} (hWV : W ⊆ V) {s t : State} (h : Effect W s t) : Effect V s t :=
  h.lift id fun _ _ => Update.mono hWV

theorem Micro.Does.mono {W V : List Part} (hWV : W ⊆ V) {stop : Option Nat} {s : State} {m : Micro}
    (h : m.Does W stop s) : m.Does V stop s := by
  cases m with
  | done u => exact Effect.mono hWV h
  | raised c n u => exact ⟨h.1.mono hWV, h.2⟩
  | cut u => exact ⟨h.1.mono hWV, h.2⟩

/-- The parts that each command other than SRESET writes. -/
def partsWritten : Instr → List Part
  | .nop => []
  | .sreset => []
  | .csrw _ => [.registers, .ranges]
  | .csrr _ => []
  | .vlreq _ _ => [.negotiation]
  | .cld _ => [.lanes]
  | .cst _ => [.memory]
  | .sld _ => [.coefficients]
  | .czero _ => [.lanes]
  | .cmac _ _ => [.lanes]
  | .wb _ => [.lanes, .memory]
  | .mm2 => jobWrites
  | .mm4 => jobWrites
  | .mm => .ranges :: jobWrites

section
variable (stop : Option Nat) (s : State)

theorem runCld_does (vsel : BitVec 2) : (runCld stop vsel s).Does [.lanes] stop s := by
  unfold runCld
  split
  · exact ⟨.refl, by decide, space_pos s⟩
  · exact needFormat_does fun f =>
      needVcfg_does (vload_does stop f s (by simp) _ (addrOperand_lt s)) f _ _

theorem runCst_does (vsel : BitVec 2) : (runCst stop vsel s).Does [.memory] stop s := by
  unfold runCst
  split
  · exact ⟨.refl, by decide, space_pos s⟩
  · exact needFormat_does fun f =>
      needVcfg_does (vstore_does stop f s (by simp) _ (addrOperand_lt s)) f _ _

theorem runSld_does (row : BitVec 2) : (runSld stop row s).Does [.coefficients] stop s :=
  needFormat_does fun f => sload_does stop f s (by simp) row (addrOperand_lt s)

theorem runCzero_does (mask : BitVec 4) : (runCzero mask s).Does [.lanes] stop s :=
  needFormat_does fun f => needVcfg_does (m := .done _) (czero_effect (by simp) s f.acc mask) f _ _

theorem runCmac_does (row : BitVec 2) (buf : BitVec 1) : (runCmac row buf s).Does [.lanes] stop s :=
  needFormat_does fun f => needVcfg_does (m := .done _) (cmac_effect (by simp) s f row buf) f _ _

theorem runWb_does (row : BitVec 2) : (runWb stop row s).Does [.lanes, .memory] stop s :=
  needFormat_does fun f =>
    needVcfg_does (writeback_does stop f s (by simp) (by simp) row (addrOperand_lt s)) f _ _

theorem runMm2_does : (runMm2 stop s).Does jobWrites stop s := needFormat_does fun f => jobRun_does stop f s 2

theorem runMm4_does : (runMm4 stop s).Does jobWrites stop s := needFormat_does fun f => jobRun_does stop f s 4

theorem runMm_does : (runMm stop s).Does (.ranges :: jobWrites) stop s :=
  needFormat_does fun f => ((jobRun_does stop f s.fullRanges _).mono (by simp)).after
    (Update.ranges s 0 s.dimM 0 s.dimP (by simp)).effect

theorem runUntil_does (i : Instr) (n : Nat) : (runUntil i n s).Does (partsWritten i) (some n) s := by
  cases i with
  | nop => exact .refl
  | sreset => exact .refl
  | csrw csr => exact .refl
  | csrr csr => exact .refl
  | vlreq ew grp => exact .refl
  | cld vsel => exact runCld_does _ s vsel
  | cst vsel => exact runCst_does _ s vsel
  | sld row => exact runSld_does _ s row
  | czero mask => exact runCzero_does _ s mask
  | cmac row buf => exact runCmac_does _ s row buf
  | wb row => exact runWb_does _ s row
  | mm2 => exact runMm2_does _ s
  | mm4 => exact runMm4_does _ s
  | mm => exact runMm_does _ s

theorem truncAddr_lt (v : DWord) : (s.truncAddr v).toNat < s.space := by
  simp only [State.truncAddr, BitVec.toNat_ofNat]
  exact (Nat.mod_le ..).trans_lt (Nat.mod_lt _ (space_pos s))

theorem csrWrite_does (r : Csr) : (s.csrWrite r).Does [.registers, .ranges] stop s := by
  cases r with
  | fmt =>
    unfold State.csrWrite
    dsimp only
    split
    · rename_i hlegal
      exact (Update.fmt s _ (by simp) hlegal).effect
    · exact ⟨.refl, by decide, space_pos s⟩
  | cbase => exact (Update.bases s _ s.abase s.bbase (by simp) (fun _ => truncAddr_lt s _) id id).effect
  | abase => exact (Update.bases s s.cbase _ s.bbase (by simp) id (fun _ => truncAddr_lt s _) id).effect
  | bbase => exact (Update.bases s s.cbase s.abase _ (by simp) id id (fun _ => truncAddr_lt s _)).effect
  | dimM => exact (Update.dims s _ s.dimN s.dimP (by simp)).effect
  | dimN => exact (Update.dims s s.dimM _ s.dimP (by simp)).effect
  | dimP => exact (Update.dims s s.dimM s.dimN _ (by simp)).effect
  | mStart => exact (Update.ranges s _ s.mEnd s.pStart s.pEnd (by simp)).effect
  | mEnd => exact (Update.ranges s s.mStart _ s.pStart s.pEnd (by simp)).effect
  | pStart => exact (Update.ranges s s.mStart s.mEnd _ s.pEnd (by simp)).effect
  | pEnd => exact (Update.ranges s s.mStart s.mEnd s.pStart _ (by simp)).effect
  | _ => exact ⟨.refl, by decide, space_pos s⟩

end

/-! ### How a command ends -/

/-- The ends of a command whose writes leave `u`: an answer, a refusal, or a fault with a cause and an address of
the space (30_encoding.md R100, 60_exceptions.md R265, R267). -/
inductive State.Ends (u : State) : State → Prop where
  | answered (d : DWord) : u.Ends (u.respond d)
  | refused : u.Ends u.refuse
  | faulted (c : Cause) (n : Nat) (hc : c ≠ .none) (hn : n < u.space) : u.Ends (u.raiseFault c n)

/-- From `s`, writes to parts of `W`, then an end. -/
def State.Runs (W : List Part) (s t : State) : Prop := ∃ u, Effect W s u ∧ u.Ends t

section
variable {W : List Part} {s t : State}

theorem runs_refuse : s.Runs W s.refuse := ⟨s, .refl, .refused⟩

theorem runs_respond (d : DWord) : s.Runs W (s.respond d) := ⟨s, .refl, .answered d⟩

theorem runs_raiseFault {c : Cause} (hc : c ≠ .none) : s.Runs W (s.raiseFault c 0) :=
  ⟨s, .refl, .faulted c 0 hc (space_pos s)⟩

theorem unlessFaulted_runs {run : State → State} (h : s.Runs W (run s)) : s.Runs W (s.unlessFaulted run) := by
  cases hf : s.fault with
  | true => rw [unlessFaulted_faulted hf]; exact runs_refuse
  | false => rwa [unlessFaulted_running hf]

theorem finish_runs {m : Micro} (h : m.Does W none s) : s.Runs W m.finish := by
  cases m with
  | done u => exact ⟨u, h, .answered 0⟩
  | raised c n u =>
    obtain ⟨he, hc, hn⟩ := h
    exact ⟨u, he, .faulted c n hc (he.space.symm ▸ hn)⟩
  | cut u => exact absurd rfl h.2

end

theorem vlreq_runs (s : State) (ew grp : BitVec 2) :
    s.Runs [.negotiation] (s.unlessFaulted fun s =>
      if ew = 0 then s.raiseFault .illegalCmd 0
      else (s.negotiate s.port.opA.toNat ew grp).respond ((s.negotiate s.port.opA.toNat ew grp).vl.setWidth 64)) := by
  refine unlessFaulted_runs ?_
  split
  · exact runs_raiseFault (by decide)
  · rename_i hew
    exact ⟨_, (Update.negotiate s _ ew grp (by simp) hew).effect, .answered _⟩

/-- Every command but SRESET writes its parts, and then ends. -/
theorem exec_runs {i : Instr} {s t : State} (h : exec i s = .next t) (hi : i ≠ .sreset) :
    s.Runs (partsWritten i) t := by
  cases i with
  | nop => cases h; exact unlessFaulted_runs (runs_respond 0)
  | sreset => exact absurd rfl hi
  | csrw csr =>
    cases h
    refine unlessFaulted_runs ?_
    split
    · exact runs_raiseFault (by decide)
    · exact finish_runs (csrWrite_does none s _)
  | csrr csr =>
    cases h
    split
    · exact runs_raiseFault (by decide)
    · exact runs_respond _
  | vlreq ew grp => cases h; exact vlreq_runs s ew grp
  | cld vsel => cases h; exact unlessFaulted_runs (finish_runs (runCld_does none s vsel))
  | cst vsel => cases h; exact unlessFaulted_runs (finish_runs (runCst_does none s vsel))
  | sld row => cases h; exact unlessFaulted_runs (finish_runs (runSld_does none s row))
  | czero mask => cases h; exact unlessFaulted_runs (finish_runs (runCzero_does none s mask))
  | cmac row buf => cases h; exact unlessFaulted_runs (finish_runs (runCmac_does none s row buf))
  | wb row => cases h; exact unlessFaulted_runs (finish_runs (runWb_does none s row))
  | mm2 => cases h; exact unlessFaulted_runs (finish_runs (runMm2_does none s))
  | mm4 => cases h; exact unlessFaulted_runs (finish_runs (runMm4_does none s))
  | mm => cases h; exact unlessFaulted_runs (finish_runs (runMm_does none s))

/-! ### What the writes leave alone -/

/-- The end of a command writes only the fault state and the answer. -/
theorem State.Ends.frame {u t : State} (h : u.Ends t) :
    t = { u with
      fault := t.fault, cause := t.cause, fcmd := t.fcmd, faddr := t.faddr, responses := t.responses } := by
  cases h with
  | answered d => rfl
  | refused => rfl
  | faulted c n hc hn => rw [raiseFault_frame]

section
variable {W : List Part} {s t : State}

/-- A part of the state that no write and no end changes is kept by the command. -/
theorem State.Runs.keeps {α : Type} (g : State → α) (hg : ∀ u v, Update W u v → g v = g u)
    (hend : ∀ u v, u.Ends v → g v = g u) (h : s.Runs W t) : g t = g s := by
  obtain ⟨u, heffect, hends⟩ := h
  exact (hend u t hends).trans (heffect.keeps g hg)

theorem State.Runs.mem_eq (h : s.Runs W t) (hW : .memory ∉ W) : t.mem = s.mem :=
  h.keeps State.mem (fun u v hu => by cases hu <;> simp_all)
    fun u v hu => by rw [hu.frame]

theorem State.Runs.scal_eq (h : s.Runs W t) (hW : .coefficients ∉ W) : t.scal = s.scal :=
  h.keeps State.scal (fun u v hu => by cases hu <;> simp_all)
    fun u v hu => by rw [hu.frame]

theorem State.Runs.negotiation_eq (h : s.Runs W t) (hW : .negotiation ∉ W) :
    t.vl = s.vl ∧ t.vsew = s.vsew ∧ t.vgrp = s.vgrp ∧ t.vlvalid = s.vlvalid := by
  have := h.keeps (fun u => (u.vl, u.vsew, u.vgrp, u.vlvalid))
    (fun u v hu => by cases hu <;> simp_all) fun u v hu => by rw [hu.frame]
  simpa using this

theorem State.Runs.cursors_eq (h : s.Runs W t) (hW : .cursors ∉ W) :
    t.cur = s.cur ∧ t.rbf = s.rbf ∧ t.pCur = s.pCur ∧ t.mCur = s.mCur ∧ t.nCur = s.nCur := by
  have := h.keeps (fun u => (u.cur, u.rbf, u.pCur, u.mCur, u.nCur))
    (fun u v hu => by cases hu <;> simp_all) fun u v hu => by rw [hu.frame]
  simpa using this

theorem State.Runs.registers_eq (h : s.Runs W t) (hW : .registers ∉ W) :
    t.fmt = s.fmt ∧ t.cbase = s.cbase ∧ t.abase = s.abase ∧ t.bbase = s.bbase ∧
      t.dimM = s.dimM ∧ t.dimN = s.dimN ∧ t.dimP = s.dimP := by
  have := h.keeps (fun u => (u.fmt, u.cbase, u.abase, u.bbase, u.dimM, u.dimN, u.dimP))
    (fun u v hu => by cases hu <;> simp_all) fun u v hu => by rw [hu.frame]
  simpa using this

theorem State.Runs.ranges_eq (h : s.Runs W t) (hW : .ranges ∉ W) :
    t.mStart = s.mStart ∧ t.mEnd = s.mEnd ∧ t.pStart = s.pStart ∧ t.pEnd = s.pEnd := by
  have := h.keeps (fun u => (u.mStart, u.mEnd, u.pStart, u.pEnd))
    (fun u v hu => by cases hu <;> simp_all) fun u v hu => by rw [hu.frame]
  simpa using this

end

/-! ### Which commands write which part -/

section
variable {i : Instr}

theorem memory_mem_partsWritten :
    .memory ∈ partsWritten i ↔ (∃ v, i = .cst v) ∨ (∃ r, i = .wb r) ∨ isJob i := by
  cases i <;> simp [partsWritten, isJob, jobWrites]

theorem coefficients_mem_partsWritten : .coefficients ∈ partsWritten i ↔ (∃ r, i = .sld r) ∨ isJob i := by
  cases i <;> simp [partsWritten, isJob, jobWrites]

theorem negotiation_mem_partsWritten : .negotiation ∈ partsWritten i ↔ (∃ ew grp, i = .vlreq ew grp) ∨ isJob i := by
  cases i <;> simp [partsWritten, isJob, jobWrites]

theorem cursors_mem_partsWritten : .cursors ∈ partsWritten i ↔ isJob i := by
  cases i <;> simp [partsWritten, isJob, jobWrites]

theorem registers_mem_partsWritten : .registers ∈ partsWritten i ↔ ∃ csr, i = .csrw csr := by
  cases i <;> simp [partsWritten, jobWrites]

theorem ranges_mem_partsWritten : .ranges ∈ partsWritten i ↔ (∃ csr, i = .csrw csr) ∨ i = .mm := by
  cases i <;> simp [partsWritten, jobWrites]

end

/-- Settles O20, by the parts that each command writes. -/
theorem configurationWrittenOnlyBy : Obligations.ConfigurationWrittenOnlyBy := by
  intro i s t hexec hsreset
  have hruns := exec_runs hexec hsreset
  refine ⟨fun hvlreq hjob => hruns.negotiation_eq ?_, fun hjob => hruns.cursors_eq ?_, fun hcsrw => ?_,
    fun hsld hjob => hruns.scal_eq ?_⟩
  · simp [negotiation_mem_partsWritten, hvlreq, hjob]
  · simp [cursors_mem_partsWritten, hjob]
  · obtain ⟨hfmt, hcbase, habase, hbbase, hdimM, hdimN, hdimP⟩ :=
      hruns.registers_eq (by simp [registers_mem_partsWritten, hcsrw])
    refine ⟨hfmt, hcbase, habase, hbbase, hdimM, hdimN, hdimP, fun hmm => hruns.ranges_eq ?_⟩
    simp [ranges_mem_partsWritten, hcsrw, hmm]
  · simp [coefficients_mem_partsWritten, hsld, hjob]

/-- Settles O47: SRESET keeps the memory, and of the other commands only CST, WB and the jobs write it. -/
theorem onlyStoresChangeMemory : Obligations.OnlyStoresChangeMemory := by
  intro i s t hexec hcst hwb hjob
  by_cases hsreset : i = .sreset
  · subst hsreset
    cases hexec
    exact softReset_mem s
  · exact (exec_runs hexec hsreset).mem_eq (by simp [memory_mem_partsWritten, hcst, hwb, hjob])

end Sys2Proof.Machine
end

section
/-! The invariant of the engine (Sys2Proof/Safety.lean): it holds at reset, every elementary write and every end of a
command keeps it, and a reset needs no more of the state before than its memory and its slots. -/

namespace Sys2Proof.Machine

/-! ### Elementary writes keep the invariant -/

theorem LanePair.SameSize.sized {p : Config.Params} {x y : LanePair} (h : x.SameSize y) (hy : y.sized p) :
    x.sized p := ⟨h.1.trans hy.1, h.2.trans hy.2⟩

theorem setSlot_sized {p : Config.Params} {s : State} (h : ∀ n, (s.slot n).sized p) (d : SlotName) {x : LanePair}
    (hx : x.sized p) (n : SlotName) : ((s.setSlot d x).slot n).sized p := by
  by_cases hd : d = n
  · subst hd; rwa [slot_setSlot_same]
  · rw [slot_setSlot_ne s x hd]; exact h n

/-- The length granted fits the named configuration, as the register holds it. -/
theorem grant_le_vlmax (p : Config.Params) (rem : Nat) (ew grp : BitVec 2) :
    (BitVec.ofNat 32 (grant p rem ew grp)).toNat ≤ vlmax p ew grp := by
  rw [BitVec.toNat_ofNat]
  exact (Nat.mod_le ..).trans (Nat.min_le_right ..)

section
variable {s t : State}

theorem setSlot_inv (h : s.Inv) (d : SlotName) {x : LanePair} (hx : x.SameSize (s.slot d)) :
    (s.setSlot d x).Inv := by
  have hsized := setSlot_sized h.slotSized d (hx.sized (h.slotSized d))
  cases d <;> exact { h with slotSized := hsized }

theorem writeValue_inv (h : s.Inv) (a : Nat) (w : Width) (v : BitVec w.bits) :
    ({ s with mem := s.mem.writeValue s.space a w.bytes v } : State).Inv :=
  { h with
    memWf := Memory.wf_writeBytes _ _ _ _ h.memWf
    memInSpace := Memory.addr_lt_writeBytes (space_pos s) _ _ _ h.memInSpace }

theorem negotiate_inv (h : s.Inv) (rem : Nat) {ew : BitVec 2} (grp : BitVec 2) (hew : ew ≠ 0) :
    (s.negotiate rem ew grp).Inv :=
  { h with
    unnegotiated := fun hv => absurd hv (by simp)
    negotiated := fun _ => ⟨hew, grant_le_vlmax s.params rem ew grp⟩ }

theorem Update.inv {W : List Part} (hu : Update W s t) (h : s.Inv) : t.Inv := by
  cases hu with
  | log r => exact { h with }
  | draw n => exact { h with }
  | slot d x hW hx => exact setSlot_inv h d hx
  | acc a hW ha => exact { h with accSized := fun r => (ha r).sized (h.accSized r) }
  | scal r c hW => exact { h with }
  | store a w v hW => exact writeValue_inv h a w v
  | negotiate rem ew grp hW hew => exact negotiate_inv h rem grp hew
  | cursors cur rbf pCur mCur nCur hW => exact { h with }
  | fmt v hW hv => exact { h with fmtLegal := .inr hv }
  | bases c a b hW hc ha hb =>
    exact { h with
      cbaseInSpace := hc h.cbaseInSpace
      abaseInSpace := ha h.abaseInSpace
      bbaseInSpace := hb h.bbaseInSpace }
  | dims m n p hW => exact { h with }
  | ranges mStart mEnd pStart pEnd hW => exact { h with }

theorem Effect.inv {W : List Part} (he : Effect W s t) (h : s.Inv) : t.Inv := by
  induction he with
  | refl => exact h
  | tail _ hu ih => exact hu.inv ih

/-! ### Ends keep the invariant -/

/-- Fault entry records a cause with its address, or changes nothing. -/
theorem raiseFault_inv (h : s.Inv) {c : Cause} {n : Nat} (hc : c ≠ .none) (hn : n < s.space) :
    (s.raiseFault c n).Inv := by
  cases hf : s.fault with
  | true => rw [raiseFault_faulted hf]; exact { h with }
  | false =>
    rw [raiseFault_running hf]
    refine { h with
      faddrInSpace := ?_
      faultCause := ⟨fun hfault => Bool.noConfusion hfault, fun hcause => absurd hcause hc⟩
      faultEvidence := fun hfault => Bool.noConfusion hfault
      faultAddress := fun hmis hacc => if_neg (not_or.2 ⟨hmis, hacc⟩) }
    change (if c = .misaligned ∨ c = .accessFault then BitVec.ofNat 64 n else 0).toNat < s.space
    split
    · rw [BitVec.toNat_ofNat]
      exact (Nat.mod_le ..).trans_lt hn
    · exact space_pos s

theorem State.Ends.inv (he : s.Ends t) (h : s.Inv) : t.Inv := by
  cases he with
  | answered d => exact { h with }
  | refused => exact { h with }
  | faulted c n hc hn => exact raiseFault_inv h hc hn

theorem State.Runs.inv {W : List Part} (hr : s.Runs W t) (h : s.Inv) : t.Inv := by
  obtain ⟨u, heffect, hends⟩ := hr
  exact hends.inv (heffect.inv h)

/-! ### Resets -/

/-- What a reset keeps of the invariant: the memory and the size of the slots. -/
structure State.StorageOk (s : State) : Prop where
  memWf : s.mem.wf = true
  memInSpace : ∀ c ∈ s.mem, c.1 < s.space
  accSized : ∀ r : BitVec 2, (s.accRow r).sized s.params
  slotSized : ∀ n : SlotName, (s.slot n).sized s.params

theorem State.Inv.storageOk (h : s.Inv) : s.StorageOk := { h with }

theorem softReset_inv (h : s.StorageOk) : s.softReset.Inv :=
  { h with
    fmtLegal := .inl rfl
    cbaseInSpace := space_pos s
    abaseInSpace := space_pos s
    bbaseInSpace := space_pos s
    faddrInSpace := space_pos s
    unnegotiated := fun _ => ⟨rfl, rfl, rfl⟩
    negotiated := fun hv => Bool.noConfusion hv
    faultCause := ⟨fun _ => rfl, fun _ => rfl⟩
    faultEvidence := fun _ => rfl
    faultAddress := fun _ _ => rfl }

theorem freeSlots_accRow (s : State) (r : BitVec 2) :
    (s.freeSlots).accRow r = (s.accRow r).free (s.draws + 2 * r.toNat) s.params.vlen := by
  simp [State.accRow, State.freeSlots]

theorem freeSlots_slot_sameSize (s : State) (n : SlotName) : ((s.freeSlots).slot n).SameSize (s.slot n) := by
  cases n with
  | bbuf b => simpa [State.slot, State.freeSlots] using free_sameSize ..
  | wbs => exact free_sameSize ..

theorem freeSlots_inv (h : s.Inv) : s.freeSlots.Inv :=
  { h with
    accSized := fun r => freeSlots_accRow s r ▸ (free_sameSize ..).sized (h.accSized r)
    slotSized := fun n => (freeSlots_slot_sameSize s n).sized (h.slotSized n) }

theorem hardReset_inv (h : s.StorageOk) (k : ResetKind) : (s.hardReset k).Inv := by
  cases k with
  | powerOn => exact freeSlots_inv (softReset_inv h)
  | warm => exact softReset_inv h

theorem progress_inv (h : s.Inv) (k : Nat) : (s.progress k).Inv := by
  unfold State.progress
  split
  · exact h
  · split
    · exact h
    · exact (runUntil_does s _ _).effect.inv h

/-- The memory of one state with the slots and coefficients of another of the same engine. -/
theorem storageOk_withSlots {made held : State} (hmade : made.StorageOk) (hheld : held.StorageOk)
    (hparams : held.params = made.params) :
    ({ made with acc := held.acc, bbuf := held.bbuf, wbs := held.wbs, scal := held.scal } : State).StorageOk :=
  { memWf := hmade.memWf
    memInSpace := hmade.memInSpace
    accSized := fun r => hparams ▸ hheld.accSized r
    slotSized := fun n => by
      have hsized := hparams ▸ hheld.slotSized n
      cases n <;> exact hsized }

theorem resetWithin_inv (h : s.Inv) (k : ResetKind) (c : Command) (requests work : Nat) :
    (s.resetWithin k c requests work).Inv := by
  have hport : ({ s with port := c } : State).Inv := { h with }
  refine hardReset_inv (storageOk_withSlots (progress_inv hport requests).storageOk ?_ ?_) k
  · split
    · exact hport.storageOk
    · exact (progress_inv hport _).storageOk
  · split <;> simp

/-- A byte written by an external agent lies in the space (00_scope.md R5, 20_memory.md R60). -/
theorem externalWrite_inv (h : s.Inv) (a : Nat) (b : Byte) :
    ({ s with mem := s.mem.write (a % s.space) b } : State).Inv := by
  refine { h with memWf := Memory.wf_write _ _ h.memWf, memInSpace := fun c hc => ?_ }
  change c.1 < s.space
  rcases Memory.addr_of_mem_write hc with heq | hmem
  · rw [heq]
    exact Nat.mod_lt _ (space_pos s)
  · exact h.memInSpace c hmem

end

/-! ### The obligations -/

/-- Settles O52: the reset state is what a reset makes of it, and its slots are blank. -/
theorem invariantAtReset : Obligations.InvariantAtReset := by
  have hstorage : State.reset.StorageOk :=
    { memWf := rfl
      memInSpace := fun c hc => absurd hc List.not_mem_nil
      accSized := fun r => by simp [State.reset, State.powerOn, State.accRow, LanePair.sized, LanePair.blank]
      slotSized := fun n => by
        cases n <;> simp [State.reset, State.powerOn, State.slot, LanePair.sized, LanePair.blank] }
  exact softReset_inv hstorage

theorem exec_inv {i : Instr} {s t : State} (hexec : exec i s = .next t) (h : s.Inv) : t.Inv := by
  by_cases hsreset : i = .sreset
  · subst hsreset
    cases hexec
    exact (State.Ends.answered 0).inv (softReset_inv h.storageOk)
  · exact (exec_runs hexec hsreset).inv h

theorem accept_inv {s t : State} {c : Command} (haccept : s.accept c = .next t) (h : s.Inv) : t.Inv := by
  have hport : ({ s with port := c } : State).Inv := { h with }
  cases hd : decode c.cmd with
  | error e =>
    rw [accept_error hd] at haccept
    cases haccept
    exact raiseFault_inv hport (by decide) (space_pos _)
  | ok i =>
    rw [accept_ok hd] at haccept
    exact exec_inv haccept hport

/-- Settles O53, by the kind of the next input: each keeps the invariant. -/
theorem stepKeepsInvariant : Obligations.StepKeepsInvariant := by
  intro s t h hstep
  have htaken rest : ({ s with inputs := rest } : State).Inv := { h with }
  cases hinputs : s.inputs with
  | nil =>
    rw [step_idle hinputs] at hstep
    cases hstep
    exact h
  | cons x rest =>
    cases x with
    | command c =>
      rw [step_command hinputs] at hstep
      exact accept_inv hstep (htaken rest)
    | external a b =>
      rw [step_external hinputs] at hstep
      cases hstep
      exact externalWrite_inv (htaken rest) a b
    | reset k =>
      rw [step_reset hinputs] at hstep
      cases hstep
      exact hardReset_inv (htaken rest).storageOk k
    | resetDuring k c requests work =>
      rw [step_resetDuring hinputs] at hstep
      cases hstep
      exact resetWithin_inv (htaken rest) k c requests work

end Sys2Proof.Machine
end

section
/-! The registers as software reads them: the fields of VCFG, STATUS, CAUSE and IMPL (spec/10_state.md R33 to R36), the
format that FMT selects (R30, spec/00_scope.md R11), and the values after a power-on (R31, R44). -/

namespace Sys2Proof.Machine

/-! ### Fields of the packed registers -/

section
variable (s : State)

theorem vcfgWord_fields :
    s.vcfgWord.extractLsb' 0 2 = s.vsew ∧ s.vcfgWord.extractLsb' 2 2 = s.vgrp ∧
      s.vcfgWord.getLsbD 4 = s.vlvalid ∧ s.vcfgWord.extractLsb' 5 27 = 0 := by
  unfold State.vcfgWord
  generalize s.vsew = ew, s.vgrp = grp, s.vlvalid = valid
  revert ew grp valid
  decide

theorem statusWord_fields :
    s.statusWord.getLsbD 0 = s.fault ∧ s.statusWord.extractLsb' 1 1 = s.cur ∧
      s.statusWord.getLsbD 2 = s.rbf ∧ s.statusWord.extractLsb' 3 29 = 0 := by
  unfold State.statusWord
  generalize s.fault = fault, s.cur = cur, s.rbf = rbf
  revert fault cur rbf
  decide

theorem causeWord_fields :
    s.causeWord.extractLsb' 4 28 = 0 ∧ s.causeWord.extractLsb' 0 4 = s.cause.code :=
  ⟨BitVec.extractLsb'_append_eq_left, BitVec.extractLsb'_append_eq_right⟩

theorem implWord_fields :
    s.implWord.extractLsb' 0 32 = BitVec.ofNat 32 s.params.vlen ∧
      s.implWord.extractLsb' 32 8 = BitVec.ofNat 8 s.params.aw.bits ∧ s.implWord.extractLsb' 40 24 = 0 := by
  refine ⟨BitVec.extractLsb'_append_eq_right, ?_, ?_⟩
  · exact (BitVec.extractLsb'_append_eq_of_le (by decide)).trans BitVec.extractLsb'_append_eq_right
  · exact (BitVec.extractLsb'_append_eq_of_le (by decide)).trans BitVec.extractLsb'_append_eq_left

end

/-- Settles O18, register by register. -/
theorem registerFields : Obligations.RegisterFields := fun s =>
  ⟨vcfgWord_fields s, statusWord_fields s, causeWord_fields s, implWord_fields s, rfl, rfl, rfl, rfl, rfl, rfl, rfl⟩

/-! ### The format of a value of FMT -/

theorem width_ofCode_eq_none (c : BitVec 2) : Width.ofCode c = none ↔ c = 0 := by
  revert c; decide

theorem width_ofCode_eq_some (c : BitVec 2) (w : Width) : Width.ofCode c = some w ↔ w.code = c := by
  revert c; cases w <;> decide

theorem width_bits_eq (w : Width) : w.bits = 8 * 2 ^ w.code.toNat := by cases w <;> rfl

theorem width_wider {w : Width} (h : w ≠ .w64) : w.wider.bits = 2 * w.bits ∧ w.wider.code = w.code + 1 := by
  cases w with
  | w16 => exact ⟨rfl, rfl⟩
  | w32 => exact ⟨rfl, rfl⟩
  | w64 => exact absurd rfl h

theorem legalFmt_iff (v : Word) :
    legalFmt v = true ↔
      v.extractLsb' 5 27 = 0 ∧ v.extractLsb' 0 2 ≠ 0 ∧ ¬ (v.getLsbD 2 = true ∧ v.extractLsb' 0 2 = 3) ∧
        ¬ (v.getLsbD 2 = true ∧ v.extractLsb' 3 2 = 3) := by
  simp only [legalFmt, Bool.and_eq_true, beq_iff_eq, bne_iff_ne, Bool.not_eq_true', Bool.and_eq_false_imp,
    beq_eq_false_iff_ne, not_and, and_assoc, ne_eq]

theorem formatOf_eq_none (v : Word) : formatOf v = none ↔ v.extractLsb' 0 2 = 0 := by
  simp [formatOf, width_ofCode_eq_none]

theorem formatOf_of_code {v : Word} {w : Width} (h : w.code = v.extractLsb' 0 2) :
    formatOf v = some
      { storage := w
        acc := if v.getLsbD 2 then w.wider else w
        widen := v.getLsbD 2
        grp := v.extractLsb' 3 2 } := by
  simp [formatOf, (width_ofCode_eq_some _ w).2 h]

/-- Settles O19: a legal value names a width, and one that widens names a width that has a wider one. -/
theorem formatOfFmt : Obligations.FormatOfFmt := by
  intro v
  refine ⟨legalFmt_iff v, formatOf_eq_none v, fun hlegal => ?_⟩
  obtain ⟨-, hsew, hwiden, -⟩ := (legalFmt_iff v).1 hlegal
  obtain ⟨w, hw⟩ := Option.ne_none_iff_exists'.1 (mt (width_ofCode_eq_none _).1 hsew)
  have hcode := (width_ofCode_eq_some _ w).1 hw
  have hwider (hv : v.getLsbD 2 = true) : w.wider.bits = 2 * w.bits ∧ w.wider.code = w.code + 1 := by
    refine width_wider fun h64 => hwiden ⟨hv, ?_⟩
    rw [← hcode, h64]
    rfl
  have heb : w.bytes = w.bits / 8 := (Nat.mul_div_cancel_left _ (by decide)).symm
  refine ⟨_, formatOf_of_code hcode, hcode ▸ width_bits_eq w, hcode, rfl, rfl, ?_, ?_, heb, rfl⟩
  · cases hv : v.getLsbD 2 with
    | true => exact (hwider hv).1
    | false => rfl
  · cases hv : v.getLsbD 2 with
    | true => exact hcode ▸ (hwider hv).2
    | false => exact hcode

/-! ### The values after a power-on -/

section
variable (p : Config.Params) (acc : Vector LanePair 4) (bbuf : Vector LanePair 2) (wbs : LanePair)
  (scal : Vector Coefficient 4)

theorem powerOn_controlReset : (State.powerOn p acc bbuf wbs scal).controlReset := by
  simp [State.controlReset, State.powerOn]

theorem vlen_lt : p.vlen < 2 ^ 32 := by
  have hpow : 2 ^ p.vlenExp.val ≤ 2 ^ 10 := Nat.pow_le_pow_right (by decide) (by omega)
  unfold Config.Params.vlen
  omega

/-- IMPL as one number: `VLEN` below, `AW` from bit 32 on (10_state.md R36). -/
theorem implWord_eq (s : State) :
    s.implWord = BitVec.ofNat 64 (s.params.vlen + s.params.aw.bits * 2 ^ 32) := by
  have hvlen := vlen_lt s.params
  have haw : s.params.aw.bits < 2 ^ 8 := by cases s.params.aw <;> decide
  apply BitVec.eq_of_toNat_eq
  simp only [State.implWord, BitVec.toNat_append, BitVec.ofNat_eq_ofNat, BitVec.toNat_ofNat, Nat.zero_mod,
    Nat.zero_shiftLeft, Nat.zero_or,    Nat.mod_eq_of_lt hvlen, Nat.mod_eq_of_lt haw]
  rw [← Nat.shiftLeft_add_eq_or_of_lt hvlen, Nat.shiftLeft_eq]
  omega

theorem powerOn_csrTable :
    ∀ e ∈ (State.powerOn p acc bbuf wbs scal).csrTable,
      e.2 = if e.1 = 0x007 then (State.powerOn p acc bbuf wbs scal).implWord else 0 := by
  have hvcfg : (State.powerOn p acc bbuf wbs scal).vcfgWord = 0 := by simp [State.vcfgWord, State.powerOn]
  have hstatus : (State.powerOn p acc bbuf wbs scal).statusWord = 0 := by simp [State.statusWord, State.powerOn]
  have hcause : (State.powerOn p acc bbuf wbs scal).causeWord = 0 := by
    simp [State.causeWord, State.powerOn, Cause.code]
  simp only [State.csrTable, hvcfg, hstatus, hcause, List.forall_mem_cons]
  simp [State.powerOn]

end

/-- Settles O51: every register is zero but IMPL, which reads the parameters. -/
theorem powerOnRegisters : Obligations.PowerOnRegisters := by
  intro p acc bbuf wbs scal
  refine ⟨powerOn_controlReset p acc bbuf wbs scal, fun csr d h => ?_⟩
  refine (powerOn_csrTable p acc bbuf wbs scal (csr, d) h).trans ?_
  rw [implWord_eq]
  rfl

end Sys2Proof.Machine
end

section
/-! A job that runs to its end (spec/43_scheduler.md R174 to R182). Its micro-operations do lane work, which leaves the
schedule alone: the negotiated configuration, the flags and the cursors. So each loop of the scheduler is followed by
the state with its schedule at the end of the loop, from which the state reached differs by lane work only. -/

namespace Sys2Proof.Machine

/-! ### Lane work -/

/-- From `s` to `t` only slots, coefficients, memory and the requests made have changed, and no accumulator and no
coefficient of a row from `n` on. -/
structure State.LaneWork (n : Nat) (s t : State) : Prop where
  frame : t = { s with
    acc := t.acc, bbuf := t.bbuf, wbs := t.wbs, scal := t.scal, mem := t.mem, trace := t.trace }
  rows : ∀ r : BitVec 2, n ≤ r.toNat → t.accRow r = s.accRow r ∧ t.scalRow r = s.scalRow r

/-- The operation ends done, with nothing but lane work between `s` and the state it leaves. -/
def Micro.Works (n : Nat) (s : State) (m : Micro) : Prop := ∃ t, m = .done t ∧ s.LaneWork n t

section
variable {n k : Nat} {s t u : State} {m : Micro}

theorem State.LaneWork.refl (n : Nat) (s : State) : s.LaneWork n s := ⟨rfl, fun _ _ => ⟨rfl, rfl⟩⟩

theorem State.LaneWork.trans (hst : s.LaneWork n t) (htu : t.LaneWork n u) : s.LaneWork n u := by
  refine ⟨?_, fun r hr => ?_⟩
  · calc u = _ := htu.frame
      _ = { s with
            acc := u.acc, bbuf := u.bbuf, wbs := u.wbs, scal := u.scal, mem := u.mem, trace := u.trace } := by
        rw [hst.frame]
  · obtain ⟨hacc, hscal⟩ := hst.rows r hr
    obtain ⟨hacc', hscal'⟩ := htu.rows r hr
    exact ⟨hacc'.trans hacc, hscal'.trans hscal⟩

theorem State.LaneWork.mono (h : s.LaneWork k t) (hkn : k ≤ n) : s.LaneWork n t :=
  ⟨h.frame, fun r hr => h.rows r (hkn.trans hr)⟩

theorem Micro.Works.andThen {l : State → Micro} (h : m.Works n s)
    (hl : ∀ u, s.LaneWork n u → (l u).Works n u) : (m.andThen l).Works n s := by
  obtain ⟨u, rfl, hu⟩ := h
  obtain ⟨t, ht, hut⟩ := hl u hu
  exact ⟨t, ht, hu.trans hut⟩

theorem Micro.Works.after (hst : s.LaneWork n t) (h : m.Works n t) : m.Works n s := by
  obtain ⟨u, hm, hu⟩ := h
  exact ⟨u, hm, hst.trans hu⟩

theorem Micro.Works.mono (h : m.Works k s) (hkn : k ≤ n) : m.Works n s := by
  obtain ⟨t, hm, ht⟩ := h
  exact ⟨t, hm, ht.mono hkn⟩

/-! ### Lane work of each operation whose requests are admitted -/

theorem vload_works {f : Format} {a : Nat} (d : SlotName) (ha : a % f.eb = 0)
    (h : s.admitsElements .read f a s.vl.toNat) : (vload none f d a s).Works n s := by
  refine ⟨_, vload_ok d ha h, ?_⟩
  cases d <;> exact ⟨rfl, fun _ _ => ⟨rfl, rfl⟩⟩

theorem sload_works {f : Format} {a : Nat} {r : BitVec 2} (hr : r.toNat < n) (ha : a % f.eb = 0)
    (h : s.admitsElements .read f a 1) : (sload none f r a s).Works n s := by
  refine ⟨_, sload_ok r ha h, rfl, fun q hq => ⟨rfl, ?_⟩⟩
  have hne : r ≠ q := fun heq => by subst heq; omega
  exact scalRow_setScalRow_ne s _ hne

theorem cmac_works (f : Format) {r : BitVec 2} (hr : r.toNat < n) (b : BitVec 1) :
    (Micro.done (s.cmac f r b)).Works n s := by
  refine ⟨_, rfl, rfl, fun q hq => ⟨?_, rfl⟩⟩
  have hne : r ≠ q := fun heq => by subst heq; omega
  exact accRow_setAccRow_ne s _ hne

theorem writeback_works {f : Format} {d : Nat} (r : BitVec 2) (hd : d % f.eb = 0)
    (h : ∀ kind, s.admitsElements kind f d s.vl.toNat) : (writeback none f r d s).Works n s :=
  ⟨_, writeback_ok r hd (h .read) (h .write), rfl, fun _ _ => ⟨rfl, rfl⟩⟩

theorem forRows_works {op : BitVec 2 → State → Micro} {rows : Nat} (hrows : rows ≤ 4)
    (hop : ∀ r u, r.toNat < rows → s.LaneWork n u → (op r u).Works n u) : (forRows op rows s).Works n s := by
  induction rows with
  | zero => exact ⟨s, rfl, .refl n s⟩
  | succ k ih =>
    have hk : (BitVec.ofNat 2 k).toNat = k := by rw [BitVec.toNat_ofNat]; omega
    exact (ih (by omega) fun r u hr => hop r u (by omega)).andThen fun u hu => hop _ u (by omega) hu

end

/-! ### The requests of a job -/

/-- Every vector access that a job can make is aligned and admitted, and the job has an inner index. -/
structure State.Runnable (s : State) (f : Format) : Prop where
  dimN : 1 ≤ s.dimN.toNat
  a : ∀ i k, s.mStart.toNat ≤ i → i < s.mEnd.toNat → k < s.dimN.toNat →
    s.addrA f i k % f.eb = 0 ∧ s.admitsElements .read f (s.addrA f i k) 1
  b : ∀ k j v, k < s.dimN.toNat → s.pStart.toNat ≤ j → j + v ≤ s.pEnd.toNat →
    s.addrB f k j % f.eb = 0 ∧ s.admitsElements .read f (s.addrB f k j) v
  c : ∀ i j v, s.mStart.toNat ≤ i → i < s.mEnd.toNat → s.pStart.toNat ≤ j → j + v ≤ s.pEnd.toNat →
    s.addrC f i j % f.eb = 0 ∧ ∀ kind, s.admitsElements kind f (s.addrC f i j) v

section
variable {s : State} {f : Format}

theorem eb_dvd_space (s : State) (f : Format) : f.eb ∣ s.space := by
  have heb : f.eb ∣ 2 ^ 32 := by unfold Format.eb; cases f.storage <;> decide
  unfold State.space
  cases s.params.aw with
  | aw32 => exact heb
  | aw64 => exact heb.trans (Nat.pow_dvd_pow 2 (by decide))

/-- The element addresses of a view with an aligned base are aligned. -/
theorem elementAddr_aligned {base : Nat} (hbase : base % f.eb = 0) (i : Nat) :
    (base + i * f.cb) % s.space % f.eb = 0 := by
  rw [Nat.mod_mod_of_dvd _ (eb_dvd_space s f), Format.cb, Nat.add_mod, hbase]
  simp [← Nat.mul_assoc]

/-- A vector access is admitted if the access to each of its elements is. -/
theorem admitsElements_of_each {kind : RequestKind} {base i v : Nat}
    (h : ∀ j < v, s.admitsElements kind f ((base + (i + j) * f.cb) % s.space) 1) :
    s.admitsElements kind f ((base + i * f.cb) % s.space) v := by
  intro j hj
  have hre : s.reAddr f ((base + i * f.cb) % s.space) j = s.reAddr f ((base + (i + j) * f.cb) % s.space) 0 := by
    simp only [State.reAddr, Nat.mod_add_mod, Format.cb]
    congr 1
    ring
  have him : s.imAddr f ((base + i * f.cb) % s.space) j = s.imAddr f ((base + (i + j) * f.cb) % s.space) 0 := by
    simp only [State.imAddr, Nat.mod_add_mod, Format.cb]
    congr 1
    ring
  rw [hre, him]
  exact h j hj 0 Nat.one_pos

theorem runnable_of_wellFormed (hw : s.WellFormedJob f) (hadmitted : s.JobAdmitted f) : s.Runnable f where
  dimN := hw.dimN
  a i k hi hi' hk := ⟨elementAddr_aligned hw.aAligned _, hadmitted.a i k hi hi' hk⟩
  b k j v hk hj hv := by
    refine ⟨elementAddr_aligned hw.bAligned _, admitsElements_of_each fun l hl => ?_⟩
    rw [Nat.add_assoc]
    exact hadmitted.b k (j + l) hk (by omega) (by omega)
  c i j v hi hi' hj hv := by
    refine ⟨elementAddr_aligned hw.cAligned _, fun kind => admitsElements_of_each fun l hl => ?_⟩
    rw [Nat.add_assoc]
    exact hadmitted.c i (j + l) ⟨hi, hi', by omega, by omega⟩ kind

end

/-! ### One row block -/

/-- The cursors stand in the ranges of a job that can run. -/
structure State.AtTile (s : State) (f : Format) : Prop where
  runnable : s.Runnable f
  mStart : s.mStart.toNat ≤ s.mCur.toNat
  pStart : s.pStart.toNat ≤ s.pCur.toNat
  pEnd : s.pCur.toNat ≤ s.pEnd.toNat

/-- A block of `rows` rows and one column tile, at the cursors, with the tile's length negotiated. -/
structure State.InBlock (s : State) (f : Format) (rows : Nat) : Prop where
  runnable : s.Runnable f
  mStart : s.mStart.toNat ≤ s.mCur.toNat
  mEnd : s.mCur.toNat + rows ≤ s.mEnd.toNat
  pStart : s.pStart.toNat ≤ s.pCur.toNat
  pEnd : s.pCur.toNat + s.vl.toNat ≤ s.pEnd.toNat

/-- The schedule after the steady state: the inner index at its end, the buffer flag toggled once per index
(43_scheduler.md R176, R179). -/
def State.indexEnd (s : State) : State := { s with nCur := s.dimN, cur := BitVec.ofNat 1 s.dimN.toNat }

/-- The schedule after Init: the tile's length negotiated at the storage format, the index at its start
(43_scheduler.md R177). -/
def State.indexStart (s : State) (f : Format) : State :=
  { s.negotiate s.tileRemaining f.storage.code f.grp with cur := 0, nCur := 0 }

/-- The schedule after a block. -/
def State.blockEnd (s : State) (f : Format) : State := (s.indexStart f).indexEnd

section
variable {s t : State} {f : Format} {n rows : Nat}

/-- What a job can run does not depend on its schedule. -/
theorem State.Runnable.withSchedule (hs : s.Runnable f) {vl : Word} {vsew vgrp : BitVec 2} {vlvalid rbf : Bool}
    {cur : BitVec 1} {pCur mCur nCur : Word} :
    ({ s with
      vl := vl, vsew := vsew, vgrp := vgrp, vlvalid := vlvalid, cur := cur, rbf := rbf
      pCur := pCur, mCur := mCur, nCur := nCur } : State).Runnable f := { hs with }

theorem State.LaneWork.runnable (h : s.LaneWork n t) (hs : s.Runnable f) : t.Runnable f := by
  rw [h.frame]
  exact { hs with }

theorem State.LaneWork.inBlock (h : s.LaneWork n t) (hs : s.InBlock f rows) : t.InBlock f rows := by
  have hrunnable := h.runnable hs.runnable
  rw [h.frame] at hrunnable ⊢
  exact { hs with runnable := hrunnable }

theorem advanceIndex_inBlock (hs : s.InBlock f rows) : s.advanceIndex.InBlock f rows :=
  { hs with runnable := hs.runnable.withSchedule }

theorem State.LaneWork.advanceIndex (h : s.LaneWork n t) : s.advanceIndex.LaneWork n t.advanceIndex :=
  ⟨congrArg State.advanceIndex h.frame, h.rows⟩

theorem State.LaneWork.indexEnd (h : s.LaneWork n t) : s.indexEnd.LaneWork n t.indexEnd :=
  ⟨congrArg State.indexEnd h.frame, h.rows⟩

theorem State.LaneWork.nCur (h : s.LaneWork n t) : t.nCur = s.nCur :=
  (congrArg State.nCur h.frame :)

theorem State.LaneWork.dimN (h : s.LaneWork n t) : t.dimN = s.dimN :=
  (congrArg State.dimN h.frame :)

theorem State.LaneWork.cur (h : s.LaneWork n t) : t.cur = s.cur :=
  (congrArg State.cur h.frame :)

theorem jobCoefficient_works {r : BitVec 2} (hs : s.InBlock f rows) (hn : s.nCur.toNat < s.dimN.toNat)
    (hr : r.toNat < rows) : (jobCoefficient none f r s).Works rows s := by
  obtain ⟨hal, hadmits⟩ := hs.runnable.a (s.mCur.toNat + r.toNat) s.nCur.toNat
    (by have := hs.mStart; omega) (by have := hs.mEnd; omega) hn
  exact sload_works hr hal hadmits

theorem jobPrefetch_works (hs : s.InBlock f rows) : (jobPrefetch none f s).Works n s := by
  unfold jobPrefetch
  split
  · rename_i hnext
    obtain ⟨hal, hadmits⟩ := hs.runnable.b _ s.pCur.toNat _ hnext hs.pStart hs.pEnd
    exact vload_works _ hal hadmits
  · exact ⟨s, rfl, .refl n s⟩

theorem jobWriteback_works {r : BitVec 2} (hs : s.InBlock f rows) (hr : r.toNat < rows) :
    (jobWriteback none f r s).Works n s := by
  obtain ⟨hal, hadmits⟩ := hs.runnable.c (s.mCur.toNat + r.toNat) s.pCur.toNat _
    (by have := hs.mStart; omega) (by have := hs.mEnd; omega) hs.pStart hs.pEnd
  exact writeback_works r hal hadmits

/-- A half-iteration of an index of the block ends done, at the next index. -/
theorem jobHalf_works (hs : s.InBlock f rows) (hrows : rows ≤ 4) (hn : s.nCur.toNat < s.dimN.toNat) :
    (jobHalf none f rows s).Works rows s.advanceIndex := by
  have hcoefficients : (forRows (jobCoefficient none f) rows s).Works rows s :=
    forRows_works hrows fun r u hr hu =>
      jobCoefficient_works (hu.inBlock hs) (by rwa [hu.nCur, hu.dimN]) hr
  have hengine : (((forRows (jobCoefficient none f) rows s).andThen (jobPrefetch none f)).andThen
      (forRows (jobCmac f) rows)).Works rows s :=
    (hcoefficients.andThen fun u hu => jobPrefetch_works (hu.inBlock hs)).andThen fun u _ =>
      forRows_works hrows fun r v hr _ => cmac_works f hr v.cur
  obtain ⟨u, hdone, hu⟩ := hengine
  exact ⟨u.advanceIndex, by rw [jobHalf, hdone, andThen_done], hu.advanceIndex⟩

/-- The buffer flag toggles with the index. -/
theorem toggle_ofNat (n : Nat) : 1 - BitVec.ofNat 1 n = BitVec.ofNat 1 (n + 1) := by
  apply BitVec.eq_of_toNat_eq
  simp only [BitVec.toNat_sub, BitVec.toNat_ofNat]
  simp
  omega

theorem indexEnd_eq_self (hn : s.nCur = s.dimN) (hcur : s.cur = BitVec.ofNat 1 s.nCur.toNat) : s.indexEnd = s := by
  cases s
  simp_all [State.indexEnd]

/-- The steady state ends done, with the index at its end. -/
theorem jobSteady_works {fuel : Nat} (hs : s.InBlock f rows) (hrows : rows ≤ 4)
    (hn : s.nCur.toNat < s.dimN.toNat) (hcur : s.cur = BitVec.ofNat 1 s.nCur.toNat)
    (hfuel : s.dimN.toNat - s.nCur.toNat ≤ fuel) : (jobSteady none f rows fuel s).Works rows s.indexEnd := by
  induction fuel generalizing s with
  | zero => omega
  | succ fuel ih =>
    obtain ⟨u, hdone, hu⟩ := jobHalf_works hs hrows hn
    have hnCur : (s.nCur + 1).toNat = s.nCur.toNat + 1 := by bv_omega
    have hu_nCur : u.nCur = s.nCur + 1 := hu.nCur
    have hu_dimN : u.dimN = s.dimN := hu.dimN
    have hu_cur : u.cur = BitVec.ofNat 1 u.nCur.toNat := by
      rw [hu_nCur, hnCur, ← toggle_ofNat, ← hcur]
      exact hu.cur
    rw [jobSteady, hdone, andThen_done]
    split
    · rename_i hend
      refine ⟨u, rfl, ?_⟩
      exact indexEnd_eq_self hend hu_cur ▸ hu.indexEnd
    · rename_i hmore
      refine Micro.Works.after hu.indexEnd (ih (hu.inBlock (advanceIndex_inBlock hs)) ?_ hu_cur ?_)
      · rw [hu_dimN, hu_nCur] at hmore ⊢
        bv_omega
      · rw [hu_dimN, hu_nCur]
        omega

theorem halfIterations_eq (h : 1 ≤ s.dimN.toNat) : s.halfIterations = s.dimN.toNat := by
  have hne : s.dimN ≠ 0 := fun h0 => by simp [h0] at h
  rw [State.halfIterations, if_neg hne]

/-- Init clears no accumulator beyond the rows of the block. -/
theorem blockStart_laneWork (s : State) (f : Format) (rows : Nat) :
    (s.indexStart f).LaneWork rows (s.blockStart f rows) := by
  refine ⟨rfl, fun r hr => ⟨?_, rfl⟩⟩
  obtain ⟨k, hrow⟩ := blockStart_accRow s f rows r
  have hmask : (BitVec.ofNat 4 (2 ^ rows - 1)).getLsbD r.toNat = false := by
    rw [BitVec.getLsbD_ofNat, Nat.testBit_two_pow_sub_one]
    simp [hr]
  rw [hrow, hmask, if_neg Bool.false_ne_true]
  rfl

theorem indexStart_inBlock (hs : s.AtTile f) (hfits : s.mCur.toNat + rows ≤ s.mEnd.toNat) :
    (s.indexStart f).InBlock f rows where
  runnable := hs.runnable.withSchedule
  mStart := hs.mStart
  mEnd := hfits
  pStart := hs.pStart
  pEnd := by
    have hpEnd := hs.pEnd
    have hgrant : (s.indexStart f).vl.toNat ≤ s.pEnd.toNat - s.pCur.toNat := by
      rw [State.indexStart, negotiate_vl, BitVec.toNat_ofNat]
      exact (Nat.mod_le ..).trans (Nat.min_le_left ..)
    change s.pCur.toNat + (s.indexStart f).vl.toNat ≤ s.pEnd.toNat
    omega

/-- A block at the cursors ends done, with its schedule at the end of the block. -/
theorem jobBlock_works (hs : s.AtTile f) (hrows : rows ≤ 4) (hfits : s.mCur.toNat + rows ≤ s.mEnd.toNat) :
    (jobBlock none f rows s).Works rows (s.blockEnd f) := by
  have hstart := blockStart_laneWork s f rows
  have hblock := hstart.inBlock (indexStart_inBlock hs hfits)
  obtain ⟨hal, hadmits⟩ := hblock.runnable.b 0 s.pCur.toNat _ hs.runnable.dimN hblock.pStart hblock.pEnd
  obtain ⟨u, hinit, hu⟩ : (jobInit none f rows s).Works rows (s.indexStart f) :=
    jobInit_eq_vload none f rows s ▸ Micro.Works.after hstart (vload_works _ hal hadmits)
  have hu_inBlock := hu.inBlock (indexStart_inBlock hs hfits)
  have hu_nCur : u.nCur = 0 := hu.nCur
  obtain ⟨v, hsteady, hv⟩ : (jobSteady none f rows u.halfIterations u).Works rows u.indexEnd :=
    jobSteady_works hu_inBlock hrows (by rw [hu_nCur]; exact hu_inBlock.runnable.dimN)
      (by rw [hu_nCur]; exact hu.cur) (by rw [halfIterations_eq hu_inBlock.runnable.dimN]; omega)
  have hv_inBlock : v.InBlock f rows :=
    hv.inBlock { hu_inBlock with runnable := hu_inBlock.runnable.withSchedule }
  rw [jobBlock, hinit, andThen_done, hsteady, andThen_done]
  exact Micro.Works.after (hu.indexEnd.trans hv)
    (forRows_works hrows fun r w hr hw => jobWriteback_works (hw.inBlock hv_inBlock) hr)

end

/-! ### The loop nest -/

/-- A block has at least one row, and no more than the factor or than are left (43_scheduler.md R175). -/
theorem blockRows_bounds {s : State} {rb : Nat} (hrb : 1 ≤ rb) (h : s.mCur.toNat < s.mEnd.toNat) :
    1 ≤ s.blockRows rb ∧ s.blockRows rb ≤ rb ∧ s.mCur.toNat + s.blockRows rb ≤ s.mEnd.toNat := by
  unfold State.blockRows
  omega

/-- The schedule after all row blocks of a tile. -/
def State.rowsEnd (s : State) (f : Format) : State :=
  { s with
    vl := BitVec.ofNat 32 (grant s.params s.tileRemaining f.storage.code f.grp)
    vsew := f.storage.code
    vgrp := f.grp
    vlvalid := true
    cur := BitVec.ofNat 1 s.dimN.toNat
    mCur := s.mEnd
    nCur := s.dimN }

/-- The schedule after the last column tile: the length of what the full tiles leave, the cursors at the ends of their
ranges (40_vln.md R125, 43_scheduler.md R174). -/
def State.tilesEnd (s : State) (f : Format) : State :=
  { s with
    vl := BitVec.ofNat 32 ((s.pEnd.toNat - s.pCur.toNat - 1) % vlmax s.params f.storage.code f.grp + 1)
    vsew := f.storage.code
    vgrp := f.grp
    vlvalid := true
    cur := BitVec.ofNat 1 s.dimN.toNat
    pCur := s.pEnd
    mCur := s.mEnd
    nCur := s.dimN }

section
variable {s t : State} {f : Format} {n rb : Nat}

theorem State.LaneWork.rowsEnd (h : s.LaneWork n t) : (s.rowsEnd f).LaneWork n (t.rowsEnd f) :=
  ⟨congrArg (fun s => State.rowsEnd s f) h.frame, h.rows⟩

theorem State.LaneWork.tilesEnd (h : s.LaneWork n t) : (s.tilesEnd f).LaneWork n (t.tilesEnd f) :=
  ⟨congrArg (fun s => State.tilesEnd s f) h.frame, h.rows⟩

theorem State.LaneWork.setMCur (h : s.LaneWork n t) (x : Word) :
    ({ s with mCur := x } : State).LaneWork n { t with mCur := x } :=
  ⟨congrArg (fun s : State => { s with mCur := x }) h.frame, h.rows⟩

theorem State.LaneWork.setPCur (h : s.LaneWork n t) (x : Word) :
    ({ s with pCur := x } : State).LaneWork n { t with pCur := x } :=
  ⟨congrArg (fun s : State => { s with pCur := x }) h.frame, h.rows⟩

theorem State.LaneWork.atTile (h : s.LaneWork n t) (hs : s.AtTile f) : t.AtTile f := by
  have hrunnable := h.runnable hs.runnable
  rw [h.frame] at hrunnable ⊢
  exact { hs with runnable := hrunnable }

/-- After a block, the rows that follow end where the rows from its own on end. -/
theorem rowsEnd_blockEnd (s : State) (f : Format) (next : Word) :
    ({ s.blockEnd f with mCur := next } : State).rowsEnd f = s.rowsEnd f := by
  rfl

theorem rowsEnd_setMCur (s : State) (f : Format) (x : Word) :
    ({ s with mCur := x } : State).rowsEnd f = s.rowsEnd f := by
  rfl

theorem jobBlocks_next {u : State} (fuel : Nat) (h : jobBlock none f (s.blockRows rb) s = .done u) :
    jobBlocks none f rb (fuel + 1) s =
      if u.mEnd.toNat ≤ (u.mCur + BitVec.ofNat 32 (s.blockRows rb)).toNat then
        .done { u with mCur := u.mCur + BitVec.ofNat 32 (s.blockRows rb) }
      else jobBlocks none f rb fuel { u with mCur := u.mCur + BitVec.ofNat 32 (s.blockRows rb) } := by
  rw [jobBlocks, h]
  rfl

/-- The row blocks from the row cursor on end done, with the schedule at the end of the rows. -/
theorem jobBlocks_works {fuel : Nat} (hs : s.AtTile f) (hrb : 1 ≤ rb) (hrb' : rb ≤ 4)
    (hrow : s.mCur.toNat < s.mEnd.toNat) (hfuel : s.mEnd.toNat - s.mCur.toNat ≤ fuel) :
    (jobBlocks none f rb fuel s).Works rb (s.rowsEnd f) := by
  induction fuel generalizing s with
  | zero => omega
  | succ fuel ih =>
    obtain ⟨hpos, hle, hfits⟩ := blockRows_bounds hrb hrow
    obtain ⟨u, hdone, hu⟩ := (jobBlock_works hs (hle.trans hrb') hfits).mono hle
    have hu_mEnd : u.mEnd = s.mEnd := (congrArg State.mEnd hu.frame :)
    have hnext : (u.mCur + BitVec.ofNat 32 (s.blockRows rb)).toNat = s.mCur.toNat + s.blockRows rb := by
      have hmCur : u.mCur = s.mCur := (congrArg State.mCur hu.frame :)
      have hlt := s.mEnd.isLt
      rw [hmCur, BitVec.toNat_add, BitVec.toNat_ofNat]
      omega
    rw [jobBlocks_next fuel hdone]
    generalize u.mCur + BitVec.ofNat 32 (s.blockRows rb) = next at hnext ⊢
    have hv := hu.setMCur next
    split
    · rename_i hend
      obtain rfl : next = s.mEnd := BitVec.eq_of_toNat_eq (by rw [hu_mEnd] at hend; omega)
      exact ⟨_, rfl, hv⟩
    · rename_i hmore
      have hmStart := hs.mStart
      have htile : ({ s.blockEnd f with mCur := next } : State).AtTile f :=
        { hs with runnable := hs.runnable.withSchedule, mStart := by change s.mStart.toNat ≤ next.toNat; omega }
      have hrest := hv.rowsEnd (f := f)
      rw [rowsEnd_blockEnd] at hrest
      refine Micro.Works.after hrest (ih (hv.atTile htile) ?_ ?_)
      · change next.toNat < u.mEnd.toNat
        exact Nat.lt_of_not_le hmore
      · change u.mEnd.toNat - next.toNat ≤ fuel
        rw [hu_mEnd]
        omega

theorem vlmax_pos (p : Config.Params) (ew grp : BitVec 2) : 0 < vlmax p ew grp := by
  have hwidth : 2 ^ ew.toNat ≤ 2 ^ 3 := Nat.pow_le_pow_right (by decide) (by omega)
  have hlanes : 1 ≤ 2 ^ grp.toNat * 2 ^ p.vlenExp.val :=
    Nat.one_le_two_pow.trans (Nat.le_mul_of_pos_right _ (by simp))
  refine Nat.div_pos ?_ (by simp)
  unfold Config.Params.vlen
  calc 8 * 2 ^ ew.toNat ≤ 64 * 1 := by omega
    _ ≤ 64 * (2 ^ grp.toNat * 2 ^ p.vlenExp.val) := Nat.mul_le_mul_left _ hlanes
    _ = 2 ^ grp.toNat * (64 * 2 ^ p.vlenExp.val) := by ring

/-- The length granted for what is left of the columns, as the register holds it. -/
theorem rowsEnd_vl (s : State) (f : Format) :
    (s.rowsEnd f).vl.toNat = min (s.pEnd.toNat - s.pCur.toNat) (vlmax s.params f.storage.code f.grp) := by
  have hlt := s.pEnd.isLt
  change (BitVec.ofNat 32 (min _ _)).toNat = _
  rw [BitVec.toNat_ofNat, Nat.mod_eq_of_lt]
  · rfl
  · exact (Nat.min_le_left ..).trans_lt ((Nat.sub_le ..).trans_lt hlt)

/-- After a full tile, the tiles that follow end where the tiles from its own on end. -/
theorem tilesEnd_rowsEnd {next : Word} (hnext : next.toNat = s.pCur.toNat + vlmax s.params f.storage.code f.grp)
    (hmore : next.toNat < s.pEnd.toNat) :
    ({ s.rowsEnd f with pCur := next } : State).tilesEnd f = s.tilesEnd f := by
  have hlast : (s.pEnd.toNat - next.toNat - 1) % vlmax s.params f.storage.code f.grp =
      (s.pEnd.toNat - s.pCur.toNat - 1) % vlmax s.params f.storage.code f.grp := by
    rw [← Nat.add_mod_right]
    congr 1
    omega
  simp only [State.tilesEnd, State.rowsEnd, hlast]

/-- The last tile has the length of what is left. -/
theorem tilesEnd_of_last (hmore : s.pCur.toNat < s.pEnd.toNat)
    (hlast : s.pEnd.toNat - s.pCur.toNat ≤ vlmax s.params f.storage.code f.grp) :
    ({ s.rowsEnd f with pCur := s.pEnd } : State) = s.tilesEnd f := by
  have hvl : (s.rowsEnd f).vl =
      BitVec.ofNat 32 ((s.pEnd.toNat - s.pCur.toNat - 1) % vlmax s.params f.storage.code f.grp + 1) := by
    rw [Nat.mod_eq_of_lt (by omega), Nat.sub_add_cancel (by omega), ← Nat.min_eq_left hlast, ← rowsEnd_vl]
    simp
  rw [State.tilesEnd, ← hvl]
  rfl

theorem jobTiles_next {u : State} (fuel : Nat)
    (h : jobBlocks none f rb (s.mEnd.toNat - s.mStart.toNat) { s with mCur := s.mStart } = .done u) :
    jobTiles none f rb (fuel + 1) s =
      if u.pEnd.toNat ≤ (u.pCur + u.vl).toNat then .done { u with pCur := u.pCur + u.vl }
      else jobTiles none f rb fuel { u with pCur := u.pCur + u.vl } := by
  rw [jobTiles]
  dsimp only
  rw [h]
  rfl

/-- The column tiles from the column cursor on end done, with the schedule at the end of the columns. -/
theorem jobTiles_works {fuel : Nat} (hs : s.Runnable f) (hrb : 1 ≤ rb) (hrb' : rb ≤ 4)
    (hrows : s.mStart.toNat < s.mEnd.toNat) (hstart : s.pStart.toNat ≤ s.pCur.toNat)
    (hcolumn : s.pCur.toNat < s.pEnd.toNat) (hfuel : s.pEnd.toNat - s.pCur.toNat ≤ fuel) :
    (jobTiles none f rb fuel s).Works rb (s.tilesEnd f) := by
  induction fuel generalizing s with
  | zero => omega
  | succ fuel ih =>
    have htile : ({ s with mCur := s.mStart } : State).AtTile f :=
      { runnable := hs.withSchedule, mStart := le_rfl, pStart := hstart, pEnd := hcolumn.le }
    have hblocks := jobBlocks_works htile hrb hrb' hrows le_rfl
    rw [rowsEnd_setMCur] at hblocks
    obtain ⟨u, hdone, hu⟩ := hblocks
    have hu_pEnd : u.pEnd = s.pEnd := (congrArg State.pEnd hu.frame :)
    have hmax := vlmax_pos s.params f.storage.code f.grp
    have hnext : (u.pCur + u.vl).toNat =
        s.pCur.toNat + min (s.pEnd.toNat - s.pCur.toNat) (vlmax s.params f.storage.code f.grp) := by
      have hpCur : u.pCur = s.pCur := (congrArg State.pCur hu.frame :)
      have hvl : u.vl = (s.rowsEnd f).vl := (congrArg State.vl hu.frame :)
      have hlt := s.pEnd.isLt
      rw [hpCur, BitVec.toNat_add, hvl, rowsEnd_vl]
      omega
    rw [jobTiles_next (s := s) fuel hdone]
    generalize u.pCur + u.vl = next at hnext ⊢
    have hv := hu.setPCur next
    split
    · rename_i hend
      rw [hu_pEnd] at hend
      obtain rfl : next = s.pEnd := BitVec.eq_of_toNat_eq (by omega)
      rw [tilesEnd_of_last hcolumn (by omega)] at hv
      exact ⟨_, rfl, hv⟩
    · rename_i hmore
      have hmore' : next.toNat < s.pEnd.toNat := hu_pEnd ▸ Nat.lt_of_not_le hmore
      have hrest := hv.tilesEnd (f := f)
      rw [tilesEnd_rowsEnd (by omega) hmore'] at hrest
      have hpStart : u.pStart = s.pStart := (congrArg State.pStart hu.frame :)
      have hrows' : u.mStart.toNat < u.mEnd.toNat := by rw [hu.frame]; exact hrows
      have hrunnable : ({ u with pCur := next } : State).Runnable f := hv.runnable hs.withSchedule
      refine Micro.Works.after hrest (ih hrunnable hrows' ?_ (Nat.lt_of_not_le hmore) ?_)
      · change u.pStart.toNat ≤ next.toNat
        rw [hpStart]
        omega
      · change u.pEnd.toNat - next.toNat ≤ fuel
        rw [hu_pEnd]
        omega

end

/-! ### Job commands -/

/-- The schedule of a job of factor `rb` that has run to its end. -/
def State.jobEnd (s : State) (f : Format) (rb : Nat) : State :=
  ({ s with rbf := rb == 4, pCur := s.pStart } : State).tilesEnd f

theorem jobRun_works {s : State} {f : Format} {rb : Nat} (hs : s.Runnable f) (hrb : 1 ≤ rb) (hrb' : rb ≤ 4)
    (hrows : s.mStart.toNat < s.mEnd.toNat) (hcolumns : s.pStart.toNat < s.pEnd.toNat) :
    (jobRun none f rb s).Works rb (s.jobEnd f rb) := by
  have hnonempty : ¬ (s.mEnd.toNat ≤ s.mStart.toNat ∨ s.pEnd.toNat ≤ s.pStart.toNat) := by omega
  have hrunnable : ({ s with rbf := rb == 4, pCur := s.pStart } : State).Runnable f :=
    hs.withSchedule
  rw [jobRun, if_neg hnonempty]
  exact jobTiles_works hrunnable hrb hrb' hrows le_rfl hcolumns le_rfl

/-- A job command with a format runs the job of its factor on its ranges (43_scheduler.md R181, R182,
45_dispatch_control.md R210). -/
theorem exec_job {s u : State} {i : Instr} {rb : Nat} {f : Format} (hfault : s.fault = false)
    (hjob : jobOf s i = some (rb, u)) (hformat : u.format = some f) :
    exec i s = .next (jobRun none f rb u).finish := by
  cases i with
  | mm2 =>
    cases hjob
    change Host.Outcome.next (s.unlessFaulted fun s => (runMm2 none s).finish) = _
    rw [unlessFaulted_running hfault, runMm2, needFormat_some hformat]
  | mm4 =>
    cases hjob
    change Host.Outcome.next (s.unlessFaulted fun s => (runMm4 none s).finish) = _
    rw [unlessFaulted_running hfault, runMm4, needFormat_some hformat]
  | mm =>
    cases hjob
    have hformat' : s.format = some f := hformat
    change Host.Outcome.next (s.unlessFaulted fun s => (runMm none s).finish) = _
    rw [unlessFaulted_running hfault, runMm, needFormat_some hformat']
    rfl
  | _ => cases hjob

/-- What the state whose ranges a job works on has of the state before, and the factors there are. -/
theorem jobOf_some {s u : State} {i : Instr} {rb : Nat} (hjob : jobOf s i = some (rb, u)) :
    (rb = 2 ∨ rb = 4) ∧ u.responses = s.responses ∧ u.acc = s.acc ∧ u.scal = s.scal := by
  cases i with
  | mm2 => cases hjob; exact ⟨.inl rfl, rfl, rfl, rfl⟩
  | mm4 => cases hjob; exact ⟨.inr rfl, rfl, rfl, rfl⟩
  | mm =>
    cases hjob
    refine ⟨?_, rfl, rfl, rfl⟩
    split
    · exact .inl rfl
    · exact .inr rfl
  | _ => cases hjob

theorem ofNat_one_mod (n : Nat) : BitVec.ofNat 1 n = BitVec.ofNat 1 (n % 2) := by
  apply BitVec.eq_of_toNat_eq
  simp

/-- Settles O39: the loop nest ends done, with lane work between the schedule at its end and the state reached. -/
theorem jobCompletes : Obligations.JobCompletes := by
  intro s u i rb f hfault hjob hwf hadmitted hrows hcolumns
  obtain ⟨hrb, hresponses, hacc, hscal⟩ := jobOf_some hjob
  obtain ⟨t, hdone, ht⟩ := jobRun_works (rb := rb) (runnable_of_wellFormed hwf hadmitted) (by omega) (by omega)
    hrows hcolumns
  refine ⟨t.respond 0, by rw [exec_job hfault hjob hwf.format, hdone, finish_done], ?_,
    (congrArg State.pCur ht.frame :), (congrArg State.mCur ht.frame :), (congrArg State.nCur ht.frame :),
    (congrArg State.rbf ht.frame :), (congrArg State.vl ht.frame :), ?_, (congrArg State.vsew ht.frame :),
    (congrArg State.vgrp ht.frame :), (congrArg State.vlvalid ht.frame :), ?_, fun r hr => ?_⟩
  · rw [respond_responses, ← hresponses]
    exact congrArg _ (congrArg State.responses ht.frame :)
  · rw [← ofNat_one_mod]
    exact (congrArg State.cur ht.frame :)
  · rw [ht.frame]
    rfl
  · obtain ⟨hrowAcc, hrowScal⟩ := ht.rows r hr
    refine ⟨hrowAcc.trans ?_, hrowScal.trans ?_⟩
    · exact congrArg (fun a : Vector LanePair 4 => a[r.toNat]'r.isLt) hacc
    · exact congrArg (fun a : Vector Coefficient 4 => a[r.toNat]'r.isLt) hscal

end Sys2Proof.Machine
end

section
/-! The requests of a command on the memory interface (spec/20_memory.md R62 to R67): what one request does, and that
every operation makes requests of one part at aligned addresses of the space and changes the memory by its writes
alone. -/

namespace Sys2Proof.Machine

/-! ### One request -/

theorem two_pow_le_space (s : State) : 2 ^ 32 ≤ s.space :=
  Nat.pow_le_pow_right (by decide) (by cases s.params.aw <;> decide)

theorem bytes_le_space (s : State) (w : Width) : w.bytes ≤ s.space :=
  calc w.bytes ≤ 2 ^ 32 := by cases w <;> decide
    _ ≤ s.space := two_pow_le_space s

/-- What a store put at an address is read there, whatever requests are on the interface. -/
theorem loadValue_stored (s : State) (a : Nat) (w : Width) (v : BitVec w.bits) (trace : List Request) :
    ({ s with mem := s.mem.writeValue s.space a w.bytes v, trace := trace } : State).loadValue a w = v :=
  Memory.readValue_writeValue _ _ _ _ v (bytes_le_space s w)

/-- Settles O44, by the bytes of the value read and of the value stored. -/
theorem requestsAreLittleEndian : Obligations.RequestsAreLittleEndian := by
  intro s a w
  refine ⟨fun hread => ⟨_, _, memRead_ok hread, rfl, fun k hk => leByte_leValue _ _ k hk⟩, fun hwrite v => ?_⟩
  refine ⟨_, memWrite_ok hwrite v, fun k hk => ?_, fun x hx => Memory.read_writeBytes_ne _ _ _ v _ x hx,
    fun hread => ?_⟩
  · exact Memory.read_writeBytes _ _ _ v _ k hk (bytes_le_space s w)
  · exact ⟨_, (memRead_ok (by exact hread)).trans (congrArg (ReadAnswer.data · _) (loadValue_stored s a w v _))⟩

/-! ### The replay of writes -/

theorem replayWrites_append (size : Nat) (m : Memory) (rs qs : List Request) :
    replayWrites size m (rs ++ qs) = replayWrites size (replayWrites size m rs) qs := by
  induction rs generalizing m with
  | nil => rfl
  | cons r rs ih => exact ih _

/-- A value stored as the interface carries it, zero-extended to 64 bits, is stored the same. -/
theorem writeBytes_setWidth (m : Memory) (size a : Nat) {b : Nat} (hb : b ≤ 64) (v : BitVec b) (n : Nat) :
    m.writeBytes size a (v.setWidth 64) n = m.writeBytes size a v n := by
  induction n with
  | zero => rfl
  | succ n ih => rw [Memory.writeBytes, Memory.writeBytes, ih, leByte_setWidth v hb]

theorem replayWrites_writeRequest (size : Nat) (m : Memory) (a : Nat) (w : Width) (v : BitVec w.bits) :
    replayWrites size m [writeRequest a w v] = m.writeValue size a w.bytes v :=
  writeBytes_setWidth m size a (by cases w <;> decide) v w.bytes

/-! ### Requests of an operation -/

/-- The request moves one part at the storage width of the format `F`, at an aligned address of a space of `size`
bytes; with no format there is none. -/
def Request.Fits (F : Option Format) (size : Nat) (r : Request) : Prop :=
  ∃ f, F = some f ∧ r.width = f.storage ∧ r.addr % f.eb = 0 ∧ r.addr < size

/-- From `s` to `t` requests that fit the format `F` are made, and the memory changes by their writes alone. -/
structure State.Accesses (F : Option Format) (s t : State) : Prop where
  params : t.params = s.params
  requests : ∃ made, t.trace = made ++ s.trace ∧ t.mem = replayWrites s.space s.mem made.reverse ∧
    ∀ r ∈ made, r.Fits F s.space

section
variable {F : Option Format} {s t u : State} {m : Micro}

/-- A change that makes no request and leaves the memory alone. -/
theorem State.Accesses.quiet (hparams : t.params = s.params) (htrace : t.trace = s.trace) (hmem : t.mem = s.mem) :
    s.Accesses F t := ⟨hparams, [], htrace, hmem, by simp⟩

theorem State.Accesses.refl : s.Accesses F s := .quiet rfl rfl rfl

theorem State.Accesses.trans (hst : s.Accesses F t) (htu : t.Accesses F u) : s.Accesses F u := by
  obtain ⟨hparams, made, htrace, hmem, hfits⟩ := hst
  obtain ⟨hparams', made', htrace', hmem', hfits'⟩ := htu
  have hspace : t.space = s.space := by simp only [State.space, hparams]
  refine ⟨hparams'.trans hparams, made' ++ made, ?_, ?_, fun r hr => ?_⟩
  · rw [htrace', htrace, List.append_assoc]
  · rw [hmem', hmem, hspace, List.reverse_append, replayWrites_append]
  · rcases List.mem_append.1 hr with hr | hr
    · exact hspace ▸ hfits' r hr
    · exact hfits r hr

/-- One read, answered or refused. -/
theorem accesses_logRead {r : Request} (hkind : r.kind = .read) (hfits : r.Fits F s.space) :
    s.Accesses F (s.logRequest r) :=
  ⟨rfl, [r], rfl, by simp [replayWrites, hkind], by simpa using hfits⟩

theorem andThen_accesses {k : State → Micro} (h : s.Accesses F m.state) (hk : ∀ u, State.Accesses F u (k u).state) :
    s.Accesses F (m.andThen k).state := by
  cases m with
  | done u => exact h.trans (hk u)
  | raised c n u => exact h
  | cut u => exact h

theorem needFormat_accesses {k : Format → Micro} (hk : ∀ f, s.Accesses (some f) (k f).state) :
    s.Accesses s.format (s.needFormat k).state := by
  cases hf : s.format with
  | none => rw [needFormat_none hf]; exact .refl
  | some f => rw [needFormat_some hf]; exact hk f

theorem needVcfg_accesses (h : s.Accesses F m.state) (f : Format) (c : BitVec 2) (g : Bool) :
    s.Accesses F (s.needVcfg f c g m).state := by
  cases hv : s.vcfgOk f c g with
  | true => rwa [needVcfg_ok hv]
  | false => rw [needVcfg_mismatch hv]; exact .refl

theorem needAligned_accesses {f : Format} {a : Nat} (h : a % f.eb = 0 → s.Accesses F m.state) :
    s.Accesses F (s.needAligned f a m).state := by
  by_cases ha : a % f.eb = 0
  · rw [needAligned_ok ha]; exact h ha
  · rw [needAligned_misaligned ha]; exact .refl

theorem finish_accesses (h : s.Accesses F m.state) : s.Accesses F m.finish := by
  cases m with
  | done u => exact h.trans (.quiet rfl rfl rfl)
  | raised c n u =>
    refine h.trans ?_
    rw [finish_raised, raiseFault_frame]
    exact .quiet rfl rfl rfl
  | cut u => exact h

theorem unlessFaulted_accesses {run : State → State} (h : s.Accesses F (run s)) :
    s.Accesses F (s.unlessFaulted run) := by
  cases hf : s.fault with
  | true => rw [unlessFaulted_faulted hf]; exact .quiet rfl rfl rfl
  | false => rwa [unlessFaulted_running hf]

end

/-! ### Loads and stores -/

section
variable (stop : Option Nat) (f : Format) (s : State) {a : Nat}

theorem reAddr_aligned (ha : a % f.eb = 0) (i : Nat) : s.reAddr f a i % f.eb = 0 := by
  rw [State.reAddr, Nat.mod_mod_of_dvd _ (eb_dvd_space s f), Nat.add_mod, ha]
  simp

theorem imAddr_aligned (ha : a % f.eb = 0) (i : Nat) : s.imAddr f a i % f.eb = 0 := by
  rw [State.imAddr, Nat.mod_mod_of_dvd _ (eb_dvd_space s f), Nat.add_mod, ha]
  simp

/-- Everything a read of one part can do: it is cut; or the read is on the interface, with data or an error. -/
theorem memRead_accesses (haligned : a % f.eb = 0) (hspace : a < s.space) :
    s.memRead stop a f.storage = .cut s ∨
      ∃ t, s.Accesses (some f) t ∧
        (s.memRead stop a f.storage = .data (s.loadValue a f.storage) t ∨ s.memRead stop a f.storage = .error t) := by
  rcases memRead_cases s stop a f.storage with ⟨-, h⟩ | ⟨-, -, h⟩ | ⟨-, -, h⟩
  · exact .inl h
  · exact .inr ⟨_, accesses_logRead rfl ⟨f, rfl, rfl, haligned, hspace⟩, .inl h⟩
  · exact .inr ⟨_, accesses_logRead rfl ⟨f, rfl, rfl, haligned, hspace⟩, .inr h⟩

theorem memWrite_accesses (haligned : a % f.eb = 0) (hspace : a < s.space) (v : BitVec f.storage.bits) :
    s.Accesses (some f) (s.memWrite stop a f.storage v).state := by
  rcases memWrite_cases s stop a f.storage v with ⟨-, h⟩ | ⟨-, -, h⟩ | ⟨-, -, h⟩ <;> rw [h]
  · exact .refl
  · refine ⟨rfl, [writeRequest a f.storage v], rfl, (replayWrites_writeRequest ..).symm, ?_⟩
    simpa using ⟨f, rfl, rfl, haligned, hspace⟩
  · refine ⟨rfl, [refusedWrite a f.storage v], rfl, by simp [replayWrites, refusedWrite], ?_⟩
    simpa using ⟨f, rfl, rfl, haligned, hspace⟩

theorem loadElement_accesses (ha : a % f.eb = 0) (d : SlotName) (i : Nat) :
    s.Accesses (some f) (loadElement stop f d a i s).state := by
  unfold loadElement
  rcases memRead_accesses stop f s (reAddr_aligned f s ha i) (reAddr_lt s f a i) with h | ⟨t, ht, h | h⟩ <;> rw [h]
  · exact .refl
  · refine ht.trans ?_
    rcases memRead_accesses stop f t (imAddr_aligned f t ha i) (imAddr_lt t f a i) with h' | ⟨u, hu, h' | h'⟩ <;>
      simp only [h']
    · exact .refl
    · exact hu.trans (.quiet (setSlot_params ..) (setSlot_trace ..) (setSlot_mem ..))
    · exact hu
  · exact ht

theorem loadElements_accesses (ha : a % f.eb = 0) (d : SlotName) (n : Nat) :
    s.Accesses (some f) (loadElements stop f d a n s).state := by
  induction n with
  | zero => exact .refl
  | succ n ih => exact andThen_accesses ih fun u => loadElement_accesses stop f u ha d n

theorem vload_accesses (d : SlotName) (a : Nat) : s.Accesses (some f) (vload stop f d a s).state := by
  refine needAligned_accesses fun ha => ?_
  have h := loadElements_accesses stop f s ha d s.vl.toNat
  cases hm : loadElements stop f d a s.vl.toNat s with
  | done u => rwa [hm] at h
  | raised c n u =>
    rw [hm] at h
    exact h.trans (.quiet (freeTarget_params ..) (freeTarget_trace ..) (freeTarget_mem ..))
  | cut u => rwa [hm] at h

theorem storeElement_accesses (ha : a % f.eb = 0) (d : SlotName) (i : Nat) :
    s.Accesses (some f) (storeElement stop f d a i s).state :=
  andThen_accesses (memWrite_accesses stop f s (reAddr_aligned f s ha i) (reAddr_lt s f a i) _) fun u =>
    memWrite_accesses stop f u (imAddr_aligned f u ha i) (imAddr_lt u f a i) _

theorem storeElements_accesses (ha : a % f.eb = 0) (d : SlotName) (n : Nat) :
    s.Accesses (some f) (storeElements stop f d a n s).state := by
  induction n with
  | zero => exact .refl
  | succ n ih => exact andThen_accesses ih fun u => storeElement_accesses stop f u ha d n

theorem vstore_accesses (d : SlotName) (a : Nat) : s.Accesses (some f) (vstore stop f d a s).state :=
  needAligned_accesses fun ha => storeElements_accesses stop f s ha d _

theorem freeScal_accesses {F : Option Format} (r : BitVec 2) : s.Accesses F (s.freeScal r) := .quiet rfl rfl rfl

theorem sload_accesses (r : BitVec 2) (a : Nat) : s.Accesses (some f) (sload stop f r a s).state := by
  refine needAligned_accesses fun ha => ?_
  rcases memRead_accesses stop f s (reAddr_aligned f s ha 0) (reAddr_lt s f a 0) with h | ⟨t, ht, h | h⟩ <;> rw [h]
  · exact .refl
  · refine ht.trans ?_
    rcases memRead_accesses stop f t (imAddr_aligned f t ha 0) (imAddr_lt t f a 0) with h' | ⟨u, hu, h' | h'⟩ <;>
      simp only [h']
    · exact .refl
    · exact hu.trans (.quiet rfl rfl rfl)
    · exact hu.trans (freeScal_accesses u r)
  · exact ht.trans (freeScal_accesses t r)

theorem writeback_accesses (r : BitVec 2) (d : Nat) : s.Accesses (some f) (writeback stop f r d s).state :=
  andThen_accesses (vload_accesses stop f s .wbs d) fun u =>
    have hsum : u.Accesses (some f) { u with wbs := addLanes f (u.accRow r) u.vl.toNat u.wbs } := .quiet rfl rfl rfl
    hsum.trans (vstore_accesses stop f _ .wbs d)

/-! ### Jobs -/

theorem forRows_accesses {F : Option Format} {op : BitVec 2 → State → Micro}
    (hop : ∀ r u, State.Accesses F u (op r u).state) (n : Nat) : s.Accesses F (forRows op n s).state := by
  induction n with
  | zero => exact .refl
  | succ n ih => exact andThen_accesses ih (hop (BitVec.ofNat 2 n))

theorem jobInit_accesses (rows : Nat) : s.Accesses (some f) (jobInit stop f rows s).state := by
  have hstart : s.Accesses (some f) (s.blockStart f rows) := .quiet rfl rfl rfl
  rw [jobInit_eq_vload]
  exact hstart.trans (vload_accesses ..)

theorem jobPrefetch_accesses : s.Accesses (some f) (jobPrefetch stop f s).state := by
  unfold jobPrefetch
  split
  · exact vload_accesses ..
  · exact .refl

theorem cmac_accesses {F : Option Format} (r : BitVec 2) (b : BitVec 1) : s.Accesses F (s.cmac f r b) :=
  .quiet rfl rfl rfl

theorem jobHalf_accesses (rows : Nat) : s.Accesses (some f) (jobHalf stop f rows s).state :=
  andThen_accesses
    (andThen_accesses
      (andThen_accesses (forRows_accesses s (fun r u => sload_accesses stop f u r _) rows)
        fun u => jobPrefetch_accesses stop f u)
      fun u => forRows_accesses u (fun r v => cmac_accesses f v r v.cur) rows)
    fun u => .quiet (advanceIndex_params u) (advanceIndex_trace u) (advanceIndex_mem u)

theorem jobSteady_accesses (rows n : Nat) : s.Accesses (some f) (jobSteady stop f rows n s).state := by
  induction n generalizing s with
  | zero => exact .refl
  | succ n ih =>
    refine andThen_accesses (jobHalf_accesses stop f s rows) fun u => ?_
    split
    · exact .refl
    · exact ih u

theorem jobBlock_accesses (rows : Nat) : s.Accesses (some f) (jobBlock stop f rows s).state :=
  andThen_accesses
    (andThen_accesses (jobInit_accesses stop f s rows) fun u => jobSteady_accesses stop f u rows _)
    fun u => forRows_accesses u (fun r v => writeback_accesses stop f v r _) rows

theorem jobBlocks_accesses (rb n : Nat) : s.Accesses (some f) (jobBlocks stop f rb n s).state := by
  induction n generalizing s with
  | zero => exact .refl
  | succ n ih =>
    refine andThen_accesses (jobBlock_accesses stop f s (s.blockRows rb)) fun u => ?_
    have hnext : u.Accesses (some f) { u with mCur := u.mCur + BitVec.ofNat 32 (s.blockRows rb) } :=
      .quiet rfl rfl rfl
    dsimp only
    split
    · exact hnext
    · exact hnext.trans (ih _)

theorem jobTiles_accesses (rb n : Nat) : s.Accesses (some f) (jobTiles stop f rb n s).state := by
  induction n generalizing s with
  | zero => exact .refl
  | succ n ih =>
    have hstart : s.Accesses (some f) { s with mCur := s.mStart } := .quiet rfl rfl rfl
    refine andThen_accesses (hstart.trans (jobBlocks_accesses stop f _ rb _)) fun u => ?_
    have hnext : u.Accesses (some f) { u with pCur := u.pCur + u.vl } := .quiet rfl rfl rfl
    dsimp only
    split
    · exact hnext
    · exact hnext.trans (ih _)

theorem jobRun_accesses (rb : Nat) : s.Accesses (some f) (jobRun stop f rb s).state := by
  have hstart : s.Accesses (some f) { s with rbf := rb == 4, pCur := s.pStart } := .quiet rfl rfl rfl
  unfold jobRun
  dsimp only
  split
  · exact .quiet rfl rfl rfl
  · exact hstart.trans (jobTiles_accesses stop f _ rb _)

end

/-! ### Commands -/

section
variable (stop : Option Nat) (s : State)

theorem runCld_accesses (vsel : BitVec 2) : s.Accesses s.format (runCld stop vsel s).state := by
  unfold runCld
  split
  · exact .refl
  · exact needFormat_accesses fun f => needVcfg_accesses (vload_accesses stop f s _ _) f _ _

theorem runCst_accesses (vsel : BitVec 2) : s.Accesses s.format (runCst stop vsel s).state := by
  unfold runCst
  split
  · exact .refl
  · exact needFormat_accesses fun f => needVcfg_accesses (vstore_accesses stop f s _ _) f _ _

theorem runSld_accesses (row : BitVec 2) : s.Accesses s.format (runSld stop row s).state :=
  needFormat_accesses fun f => sload_accesses stop f s row _

theorem runCzero_accesses (mask : BitVec 4) : s.Accesses s.format (runCzero mask s).state :=
  needFormat_accesses fun f => needVcfg_accesses (m := .done _) (by rw [czero_frame]; exact .quiet rfl rfl rfl) f _ _

theorem runCmac_accesses (row : BitVec 2) (buf : BitVec 1) : s.Accesses s.format (runCmac row buf s).state :=
  needFormat_accesses fun f => needVcfg_accesses (m := .done _) (cmac_accesses f s row buf) f _ _

theorem runWb_accesses (row : BitVec 2) : s.Accesses s.format (runWb stop row s).state :=
  needFormat_accesses fun f => needVcfg_accesses (writeback_accesses stop f s row _) f _ _

theorem runMm2_accesses : s.Accesses s.format (runMm2 stop s).state :=
  needFormat_accesses fun f => jobRun_accesses stop f s 2

theorem runMm4_accesses : s.Accesses s.format (runMm4 stop s).state :=
  needFormat_accesses fun f => jobRun_accesses stop f s 4

theorem runMm_accesses : s.Accesses s.format (runMm stop s).state :=
  needFormat_accesses fun f =>
    have hranges : s.Accesses (some f) s.fullRanges := .quiet rfl rfl rfl
    hranges.trans (jobRun_accesses stop f s.fullRanges _)

theorem csrWrite_accesses {F : Option Format} (r : Csr) : s.Accesses F (s.csrWrite r).state := by
  cases r with
  | fmt => unfold State.csrWrite; dsimp only; split <;> exact .quiet rfl rfl rfl
  | _ => exact .quiet rfl rfl rfl

end

/-- The requests of a command fit the format in force when it is accepted, and its writes are what it does to
memory. -/
theorem exec_accesses {i : Instr} {s t : State} (h : exec i s = .next t) : s.Accesses s.format t := by
  have hraise (c : Cause) : s.Accesses s.format (s.raiseFault c 0) := finish_accesses (m := .raised c 0 s) .refl
  cases i with
  | nop => cases h; exact unlessFaulted_accesses (.quiet rfl rfl rfl)
  | sreset => cases h; exact .quiet rfl rfl rfl
  | csrw csr =>
    cases h
    refine unlessFaulted_accesses ?_
    split
    · exact hraise _
    · exact finish_accesses (csrWrite_accesses s _)
  | csrr csr =>
    cases h
    split
    · exact hraise _
    · exact .quiet rfl rfl rfl
  | vlreq ew grp =>
    cases h
    refine unlessFaulted_accesses ?_
    split
    · exact hraise _
    · exact .quiet rfl rfl rfl
  | cld vsel => cases h; exact unlessFaulted_accesses (finish_accesses (runCld_accesses none s vsel))
  | cst vsel => cases h; exact unlessFaulted_accesses (finish_accesses (runCst_accesses none s vsel))
  | sld row => cases h; exact unlessFaulted_accesses (finish_accesses (runSld_accesses none s row))
  | czero mask => cases h; exact unlessFaulted_accesses (finish_accesses (runCzero_accesses s mask))
  | cmac row buf => cases h; exact unlessFaulted_accesses (finish_accesses (runCmac_accesses s row buf))
  | wb row => cases h; exact unlessFaulted_accesses (finish_accesses (runWb_accesses none s row))
  | mm2 => cases h; exact unlessFaulted_accesses (finish_accesses (runMm2_accesses none s))
  | mm4 => cases h; exact unlessFaulted_accesses (finish_accesses (runMm4_accesses none s))
  | mm => cases h; exact unlessFaulted_accesses (finish_accesses (runMm_accesses none s))

/-- Settles O45: every request of the command fits the format in force. -/
theorem requestsAreElementSized : Obligations.RequestsAreElementSized := by
  intro i s t hexec
  obtain ⟨made, htrace, -, hfits⟩ := (exec_accesses hexec).requests
  exact ⟨made, htrace, hfits⟩

/-- Settles O46: the memory changes by the writes of the command alone. -/
theorem memoryIsReplayOfWrites : Obligations.MemoryIsReplayOfWrites := by
  intro i s t hexec
  obtain ⟨made, htrace, hmem, -⟩ := (exec_accesses hexec).requests
  exact ⟨made, htrace, hmem⟩

end Sys2Proof.Machine
end

section
/-! The vector commands CLD, CST and WB (spec/41_loadstore.md R132, R133, spec/44_writeback.md R201), run to the end or
to the first refused request: the lanes and the bytes they replace, and what they keep. -/

namespace Sys2Proof.Machine

/-! ### The negotiated lanes fit the slots and the space -/

theorem width_bytes_eq (w : Width) : w.bytes = 2 ^ w.code.toNat := by cases w <;> rfl

section
variable {s : State} {f : Format} {g : Bool}

/-- The lanes of the negotiated length fit a slot (40_vln.md R121, R124). -/
theorem lanes_le_vlen (hinv : s.Inv) (hfits : s.vcfgFits f f.storage.code g) :
    s.vl.toNat * f.storage.bytes ≤ s.params.vlen := by
  obtain ⟨hvalid, hsew, -⟩ := hfits
  obtain ⟨-, hvl⟩ := hinv.negotiated hvalid
  rw [hsew, vlmax, ← width_bytes_eq, Nat.le_div_iff_mul_le (by cases f.storage <;> decide)] at hvl
  have hgroup : 2 ^ s.vgrp.toNat ≤ 2 ^ 3 := Nat.pow_le_pow_right (by decide) (by omega)
  refine Nat.le_of_mul_le_mul_left (c := 8) ?_ (by decide)
  calc 8 * (s.vl.toNat * f.storage.bytes) = s.vl.toNat * (8 * f.storage.bytes) := by ring
    _ ≤ 2 ^ s.vgrp.toNat * s.params.vlen := hvl
    _ ≤ 8 * s.params.vlen := Nat.mul_le_mul_right _ hgroup

/-- The elements of the negotiated length do not wrap onto each other. -/
theorem elements_le_space (hinv : s.Inv) (hfits : s.vcfgFits f f.storage.code g) {n : Nat} (hn : n ≤ s.vl.toNat) :
    2 * n * f.eb ≤ s.space := by
  have hlanes : n * f.eb ≤ s.params.vlen := (Nat.mul_le_mul_right _ hn).trans (lanes_le_vlen hinv hfits)
  have hvlen : s.params.vlen ≤ 64 * 2 ^ 10 :=
    Nat.mul_le_mul_left _ (Nat.pow_le_pow_right (by decide) (by omega))
  have hspace := two_pow_le_space s
  rw [Nat.mul_assoc]
  omega

end

/-! ### Lanes replaced -/

section
variable {w : Width} {n : Nat} {x y z : LanePair} {v v' : Nat → BitVec w.bits × BitVec w.bits}

theorem LanePair.updated.congr (h : x.updated y w n v) (hv : ∀ i < n, v i = v' i) : x.updated y w n v' := by
  obtain ⟨hre, him, hlanes, htail⟩ := h
  exact ⟨hre, him, fun i hi => hv i hi ▸ hlanes i hi, htail⟩

/-- Lanes replaced twice hold what was put there last. -/
theorem LanePair.updated.trans (hxy : x.updated y w n v) (hyz : y.updated z w n v') : x.updated z w n v' := by
  obtain ⟨hre, him, -, htail⟩ := hxy
  obtain ⟨hre', him', hlanes, htail'⟩ := hyz
  refine ⟨hre'.trans hre, him'.trans him, hlanes, fun k hk => ?_⟩
  obtain ⟨hkre, hkim⟩ := htail k hk
  obtain ⟨hkre', hkim'⟩ := htail' k hk
  exact ⟨hkre'.trans hkre, hkim'.trans hkim⟩

theorem updateElements_updated (g : Nat → BitVec w.bits → BitVec w.bits → BitVec w.bits × BitVec w.bits)
    (hre : n * w.bytes ≤ x.re.length) (him : n * w.bytes ≤ x.im.length) :
    x.updated (updateElements w g n x) w n fun i => g i (Slot.lane x.re w i) (Slot.lane x.im w i) :=
  ⟨updateElements_length_re .., updateElements_length_im .., fun i hi => updateElements_lane w g n x i hi hre him,
    fun k hk => updateElements_byte_ge w g n x k hk⟩

end

section
variable (s : State) {f : Format} {n : Nat} {x : LanePair}

/-- A load replaces the lanes by the elements of memory (41_loadstore.md R135). -/
theorem loadedPair_updated (a : Nat) (hx : x.sized s.params) (hn : n * f.storage.bytes ≤ s.params.vlen) :
    x.updated (s.loadedPair f a n x) f.storage n fun i => (s.reValue f a i, s.imValue f a i) :=
  updateElements_updated _ (hx.1 ▸ hn) (hx.2 ▸ hn)

/-- The scratch after the write-back's load and addition holds the sums (44_writeback.md R200). -/
theorem summedPair_updated (r : BitVec 2) (a : Nat) (hx : s.wbs.sized s.params)
    (hn : s.vl.toNat * f.storage.bytes ≤ s.params.vlen) :
    s.wbs.updated (s.summedPair f r a) f.storage s.vl.toNat fun i =>
      wbadd f (s.reValue f a i, s.imValue f a i)
        (Slot.lane (s.accRow r).re f.acc i, Slot.lane (s.accRow r).im f.acc i) := by
  have hload := loadedPair_updated s (f := f) a hx hn
  have ⟨hre, him, hlanes, _⟩ := hload
  refine hload.trans (LanePair.updated.congr (updateElements_updated _ ?_ ?_) fun i hi => ?_)
  · rwa [hre, hx.1]
  · rwa [him, hx.2]
  · obtain ⟨hi_re, hi_im⟩ := hlanes i hi
    rw [hi_re, hi_im]
    rfl

/-- The lanes that a refused load leaves: free bits, over the elements loaded before (20_memory.md R66). -/
def State.refusedPair (s : State) (f : Format) (a k : Nat) (x : LanePair) : LanePair :=
  (s.loadedPair f a k x).free s.draws (s.vl.toNat * f.eb)

theorem refusedPair_keepsFrom (a : Nat) {k : Nat} (hk : k ≤ s.vl.toNat) :
    x.keepsFrom (s.refusedPair f a k x) (s.vl.toNat * f.eb) := by
  refine ⟨(Slot.length_free ..).trans (updateElements_length_re ..),
    (Slot.length_free ..).trans (updateElements_length_im ..), fun j hj => ?_⟩
  obtain ⟨hre, him⟩ := updateElements_byte_ge f.storage (fun i _ _ => (s.reValue f a i, s.imValue f a i)) k x j
    ((Nat.mul_le_mul_right _ hk).trans hj)
  exact ⟨(Slot.byte_free_ge _ _ _ _ hj).trans hre, (Slot.byte_free_ge _ _ _ _ hj).trans him⟩

/-- A store puts the lanes at their elements and keeps every other byte (41_loadstore.md R136). -/
theorem storedMem_storesElements (a : Nat) (hn : 2 * n * f.eb ≤ s.space) :
    s.storesElements (s.storedMem f x a n) f a n fun i => (Slot.lane x.re f.storage i, Slot.lane x.im f.storage i) :=
  ⟨fun i hi k hk => storedMem_read s f x a n i k hi hk hn, fun y hy => storedMem_read_outside s f x a n y hy⟩

end

/-! ### Accesses with a refused request -/

section
variable {s : State} {f : Format} {a k : Nat}

theorem freeTarget_setSlot (s : State) (f : Format) (d : SlotName) (x : LanePair) (trace : List Request) :
    State.freeTarget { s.setSlot d x with trace := trace } f d =
      { s.setSlot d (x.free s.draws (s.vl.toNat * f.eb)) with trace := trace, draws := s.draws + 2 } := by
  cases d with
  | wbs => rfl
  | bbuf b => simp [State.freeTarget, State.setSlot, State.slot]

theorem vload_re_refused (d : SlotName) (ha : a % f.eb = 0) (hk : k < s.vl.toNat)
    (hbefore : s.admitsElements .read f a k) (hre : s.admits .read (s.reAddr f a k) f.storage = false) :
    vload none f d a s =
      .raised .accessFault (s.reAddr f a k)
        { s.setSlot d (s.refusedPair f a k (s.slot d)) with
          trace := refusedRead (s.reAddr f a k) f.storage :: ((s.loadRequests f a k).reverse ++ s.trace)
          draws := s.draws + 2 } := by
  rw [vload, needAligned_ok ha, loadElements_re_refused d hk hbefore hre]
  exact congrArg (Micro.raised _ _) (freeTarget_setSlot s f d _ _)

theorem vload_im_refused (d : SlotName) (ha : a % f.eb = 0) (hk : k < s.vl.toNat)
    (hbefore : s.admitsElements .read f a k) (hre : s.admits .read (s.reAddr f a k) f.storage = true)
    (him : s.admits .read (s.imAddr f a k) f.storage = false) :
    vload none f d a s =
      .raised .accessFault (s.imAddr f a k)
        { s.setSlot d (s.refusedPair f a k (s.slot d)) with
          trace := refusedRead (s.imAddr f a k) f.storage :: s.readRequest (s.reAddr f a k) f.storage ::
            ((s.loadRequests f a k).reverse ++ s.trace)
          draws := s.draws + 2 } := by
  rw [vload, needAligned_ok ha, loadElements_im_refused d hk hbefore hre him]
  exact congrArg (Micro.raised _ _) (freeTarget_setSlot s f d _ _)

theorem vstore_re_refused (d : SlotName) (ha : a % f.eb = 0) (hk : k < s.vl.toNat)
    (hbefore : s.admitsElements .write f a k) (hre : s.admits .write (s.reAddr f a k) f.storage = false) :
    vstore none f d a s =
      .raised .accessFault (s.reAddr f a k)
        { s with
          mem := s.storedMem f (s.slot d) a k
          trace := refusedWrite (s.reAddr f a k) f.storage (Slot.lane (s.slot d).re f.storage k) ::
            ((s.storeRequests f (s.slot d) a k).reverse ++ s.trace) } := by
  rw [vstore, needAligned_ok ha, storeElements_re_refused d hk hbefore hre]

theorem vstore_im_refused (d : SlotName) (ha : a % f.eb = 0) (hk : k < s.vl.toNat)
    (hbefore : s.admitsElements .write f a k) (hre : s.admits .write (s.reAddr f a k) f.storage = true)
    (him : s.admits .write (s.imAddr f a k) f.storage = false) :
    vstore none f d a s =
      .raised .accessFault (s.imAddr f a k)
        { s with
          mem := (s.storedMem f (s.slot d) a k).writeValue s.space (s.reAddr f a k) f.storage.bytes
            (Slot.lane (s.slot d).re f.storage k)
          trace := refusedWrite (s.imAddr f a k) f.storage (Slot.lane (s.slot d).im f.storage k) ::
            writeRequest (s.reAddr f a k) f.storage (Slot.lane (s.slot d).re f.storage k) ::
            ((s.storeRequests f (s.slot d) a k).reverse ++ s.trace) } := by
  rw [vstore, needAligned_ok ha, storeElements_im_refused d hk hbefore hre him]

theorem writeback_read_refused {c : Cause} {n : Nat} {t : State} (r : BitVec 2)
    (h : vload none f .wbs a s = .raised c n t) : writeback none f r a s = .raised c n t := by
  rw [writeback, h, andThen_raised]

theorem readAndSummed_storedMem (r : BitVec 2) (x : LanePair) :
    (s.readAndSummed f r a).storedMem f x a k = s.storedMem f x a k :=
  storedMem_congr (s := s) (t := s.readAndSummed f r a) rfl rfl f x a k

theorem readAndSummed_storeRequests (r : BitVec 2) (x : LanePair) :
    (s.readAndSummed f r a).storeRequests f x a k = s.storeRequests f x a k :=
  storeRequests_congr (s := s) (t := s.readAndSummed f r a) rfl f x a k

theorem writeback_write_re_refused (r : BitVec 2) (ha : a % f.eb = 0) (hk : k < s.vl.toNat)
    (hread : s.admitsElements .read f a s.vl.toNat) (hbefore : s.admitsElements .write f a k)
    (hre : s.admits .write (s.reAddr f a k) f.storage = false) :
    writeback none f r a s =
      .raised .accessFault (s.reAddr f a k)
        { s with
          wbs := s.summedPair f r a
          mem := s.storedMem f (s.summedPair f r a) a k
          trace := refusedWrite (s.reAddr f a k) f.storage (Slot.lane (s.summedPair f r a).re f.storage k) ::
            ((s.storeRequests f (s.summedPair f r a) a k).reverse ++
              ((s.loadRequests f a s.vl.toNat).reverse ++ s.trace)) } := by
  rw [writeback_reads_ok r ha hread, vstore_re_refused (s := s.readAndSummed f r a) .wbs ha hk hbefore hre,
    readAndSummed_storedMem, readAndSummed_storeRequests]
  rfl

theorem writeback_write_im_refused (r : BitVec 2) (ha : a % f.eb = 0) (hk : k < s.vl.toNat)
    (hread : s.admitsElements .read f a s.vl.toNat) (hbefore : s.admitsElements .write f a k)
    (hre : s.admits .write (s.reAddr f a k) f.storage = true)
    (him : s.admits .write (s.imAddr f a k) f.storage = false) :
    writeback none f r a s =
      .raised .accessFault (s.imAddr f a k)
        { s with
          wbs := s.summedPair f r a
          mem := (s.storedMem f (s.summedPair f r a) a k).writeValue s.space (s.reAddr f a k) f.storage.bytes
            (Slot.lane (s.summedPair f r a).re f.storage k)
          trace := refusedWrite (s.imAddr f a k) f.storage (Slot.lane (s.summedPair f r a).im f.storage k) ::
            writeRequest (s.reAddr f a k) f.storage (Slot.lane (s.summedPair f r a).re f.storage k) ::
            ((s.storeRequests f (s.summedPair f r a) a k).reverse ++
              ((s.loadRequests f a s.vl.toNat).reverse ++ s.trace)) } := by
  rw [writeback_reads_ok r ha hread, vstore_im_refused (s := s.readAndSummed f r a) .wbs ha hk hbefore hre him,
    readAndSummed_storedMem, readAndSummed_storeRequests]
  rfl

end

/-! ### Commands whose checks pass -/

/-- A command whose request was refused ends with `AccessFault` (60_exceptions.md R265). -/
theorem exec_accessFault {i : Instr} {s u : State} {m : Micro} {n : Nat} (hexec : exec i s = .next m.finish)
    (hrefused : m = .raised .accessFault n u) (hfault : u.fault = false) :
    exec i s = .next (u.faulted .accessFault n) := by
  rw [hexec, hrefused, finish_raised, raiseFault_running hfault]
  rfl

theorem vcfgOk_iff (s : State) (f : Format) (c : BitVec 2) (g : Bool) :
    s.vcfgOk f c g = true ↔ s.vcfgFits f c g := by
  simp only [State.vcfgOk, State.vcfgFits, Bool.and_eq_true, beq_iff_eq, Bool.not_eq_true', ← Bool.not_eq_true,
    and_assoc]

theorem slotOfVsel_of_mem {vsel : BitVec 2} {d : SlotName}
    (h : (vsel, d) ∈ [((0 : BitVec 2), SlotName.bbuf 0), (1, .bbuf 1), (2, .wbs)]) : slotOfVsel vsel = some d := by
  simp only [List.mem_cons, List.not_mem_nil, or_false, Prod.mk.injEq] at h
  rcases h with ⟨rfl, rfl⟩ | ⟨rfl, rfl⟩ | ⟨rfl, rfl⟩ <;> rfl

section
variable {s : State} {f : Format} (hfault : s.fault = false) (hformat : s.format = some f)
include hfault hformat

theorem exec_cld {vsel : BitVec 2} {d : SlotName} (hfits : s.vcfgFits f f.storage.code false)
    (hslot : slotOfVsel vsel = some d) :
    exec (.cld vsel) s = .next (vload none f d s.addrOperand s).finish := by
  change Host.Outcome.next (s.unlessFaulted fun s => (runCld none vsel s).finish) = _
  rw [unlessFaulted_running hfault, runCld, hslot]
  dsimp only
  rw [needFormat_some hformat, needVcfg_ok ((vcfgOk_iff ..).2 hfits)]

theorem exec_cst {vsel : BitVec 2} {d : SlotName} (hfits : s.vcfgFits f f.storage.code false)
    (hslot : slotOfVsel vsel = some d) :
    exec (.cst vsel) s = .next (vstore none f d s.addrOperand s).finish := by
  change Host.Outcome.next (s.unlessFaulted fun s => (runCst none vsel s).finish) = _
  rw [unlessFaulted_running hfault, runCst, hslot]
  dsimp only
  rw [needFormat_some hformat, needVcfg_ok ((vcfgOk_iff ..).2 hfits)]

theorem exec_wb (row : BitVec 2) (hfits : s.vcfgFits f f.storage.code true) :
    exec (.wb row) s = .next (writeback none f row s.addrOperand s).finish := by
  change Host.Outcome.next (s.unlessFaulted fun s => (runWb none row s).finish) = _
  rw [unlessFaulted_running hfault, runWb, needFormat_some hformat, needVcfg_ok ((vcfgOk_iff ..).2 hfits)]

end

/-! ### The obligations -/

/-- Settles O27: the load ends done, and its lanes fit the slot. -/
theorem cldLoadsLanes : Obligations.CldLoadsLanes := by
  intro s f vsel d hinv hfault hformat hfits hsel haligned hadmits
  refine ⟨s.loadedPair f s.addrOperand s.vl.toNat (s.slot d), ?_,
    loadedPair_updated s _ (hinv.slotSized d) (lanes_le_vlen hinv hfits)⟩
  rw [exec_cld hfault hformat hfits (slotOfVsel_of_mem hsel), vload_ok d haligned hadmits, finish_done]
  rfl

/-- Settles O28: the lanes of the refused load are free below `VL` and kept from there on. -/
theorem cldAccessFault : Obligations.CldAccessFault := by
  intro s f vsel d k hinv hfault hformat hfits hsel haligned hk hbefore
  have hexec := exec_cld hfault hformat hfits (slotOfVsel_of_mem hsel)
  have hkeeps := refusedPair_keepsFrom s (f := f) (x := s.slot d) s.addrOperand hk.le
  have hrunning x : (s.setSlot d x).fault = false := (setSlot_fault ..).trans hfault
  exact
    ⟨fun hre => ⟨_, _, exec_accessFault hexec (vload_re_refused d haligned hk hbefore hre) (hrunning _), hkeeps⟩,
      fun hre him =>
        ⟨_, _, exec_accessFault hexec (vload_im_refused d haligned hk hbefore hre him) (hrunning _), hkeeps⟩⟩

/-- Settles O29: the store ends done, and its elements do not wrap onto each other. -/
theorem cstStoresLanes : Obligations.CstStoresLanes := by
  intro s f vsel d hinv hfault hformat hfits hsel haligned hadmits
  refine ⟨_, ?_, storedMem_storesElements s _ (elements_le_space hinv hfits le_rfl)⟩
  rw [exec_cst hfault hformat hfits (slotOfVsel_of_mem hsel), vstore_ok d haligned hadmits, finish_done]
  rfl

/-- Settles O30: the elements before the refused request are stored, and of its own element the real part if it
was admitted. -/
theorem cstAccessFault : Obligations.CstAccessFault := by
  intro s f vsel d k hinv hfault hformat hfits hsel haligned hk hbefore
  have hexec := exec_cst hfault hformat hfits (slotOfVsel_of_mem hsel)
  have hstores := storedMem_storesElements s (x := s.slot d) s.addrOperand (elements_le_space hinv hfits hk.le)
  refine ⟨fun hre => ⟨_, exec_accessFault hexec (vstore_re_refused d haligned hk hbefore hre) hfault, hstores⟩,
    fun hre him => ⟨_, _, exec_accessFault hexec (vstore_im_refused d haligned hk hbefore hre him) hfault, hstores,
      fun j hj => ?_, fun y hy => ?_⟩⟩
  · exact Memory.read_writeBytes _ _ _ _ _ _ hj (bytes_le_space s f.storage)
  · exact Memory.read_writeBytes_ne _ _ _ _ _ _ hy

/-- Settles O36: a refused read ends the write-back in its load, a refused write in the store of the sums. -/
theorem wbAccessFault : Obligations.WbAccessFault := by
  intro s f row k hinv hfault hformat hfits haligned hk
  have hexec := exec_wb hfault hformat row hfits
  have hkeeps := refusedPair_keepsFrom s (f := f) (x := s.wbs) s.addrOperand hk.le
  have hsums := summedPair_updated s row s.addrOperand (hinv.slotSized .wbs) (lanes_le_vlen hinv hfits)
  have hstores := storedMem_storesElements s (x := s.summedPair f row s.addrOperand) s.addrOperand
    (elements_le_space hinv hfits hk.le)
  refine ⟨fun hbefore hre => ?_, fun hbefore hre him => ?_, fun hread hbefore hre => ?_,
    fun hread hbefore hre him => ?_⟩
  · have hrefused := writeback_read_refused row (vload_re_refused .wbs haligned hk hbefore hre)
    exact ⟨_, _, exec_accessFault hexec hrefused hfault, hkeeps⟩
  · have hrefused := writeback_read_refused row (vload_im_refused .wbs haligned hk hbefore hre him)
    exact ⟨_, _, exec_accessFault hexec hrefused hfault, hkeeps⟩
  · have hrefused := writeback_write_re_refused row haligned hk hread hbefore hre
    exact ⟨_, _, exec_accessFault hexec hrefused hfault, hsums, hstores⟩
  · have hrefused := writeback_write_im_refused row haligned hk hread hbefore hre him
    exact ⟨_, _, _, exec_accessFault hexec hrefused hfault, hsums, hstores,
      fun j hj => Memory.read_writeBytes _ _ _ _ _ _ hj (bytes_le_space s f.storage),
      fun y hy => Memory.read_writeBytes_ne _ _ _ _ _ _ hy⟩

end Sys2Proof.Machine
end

section
/-! The decoder and the encoder (spec/30_encoding.md R91 to R95). A word decodes to a command iff its OPC is the
command's, the bits that the command's format requires to be zero are zero, its fields are the command's operands and
the command is well-formed; each statement about decoding is read off from that. -/

namespace Sys2Proof

open Sys2Proof.Machine

/-! ### The rows of the opcode map -/

/-- OPC (30_encoding.md R94). -/
def Instr.opcode : Instr → BitVec 8
  | .nop => 0x00
  | .sreset => 0x01
  | .csrw _ => 0x08
  | .csrr _ => 0x09
  | .vlreq _ _ => 0x10
  | .cld _ => 0x20
  | .cst _ => 0x21
  | .sld _ => 0x22
  | .czero _ => 0x30
  | .cmac _ _ => 0x31
  | .wb _ => 0x38
  | .mm2 => 0x40
  | .mm4 => 0x41
  | .mm => 0x42

/-- The format (R92, R94). -/
def Instr.format : Instr → WordFormat
  | .nop => .Z
  | .sreset => .Z
  | .csrw _ => .C
  | .csrr _ => .C
  | .vlreq _ _ => .V
  | .cld _ => .B
  | .cst _ => .B
  | .sld _ => .R
  | .czero _ => .K
  | .cmac _ _ => .RB
  | .wb _ => .R
  | .mm2 => .Z
  | .mm4 => .Z
  | .mm => .Z

/-- The operands of the command stand in the fields of the word (R91). -/
def Instr.OperandsIn (w : Word) : Instr → Prop
  | .nop => True
  | .sreset => True
  | .csrw csr => csr = fieldCsr w
  | .csrr csr => csr = fieldCsr w
  | .vlreq ew grp => ew = fieldEw w ∧ grp = fieldGrp w
  | .cld vsel => vsel = fieldVsel w
  | .cst vsel => vsel = fieldVsel w
  | .sld row => row = fieldRow w
  | .czero mask => mask = fieldMask w
  | .cmac row buf => row = fieldRow w ∧ buf = fieldVsel0 w
  | .wb row => row = fieldRow w
  | .mm2 => True
  | .mm4 => True
  | .mm => True

theorem opcodeMap_eq_some_iff (w : Word) (f : WordFormat) (i : Instr) :
    opcodeMap w = some (f, i) ↔ fieldOpc w = i.opcode ∧ f = i.format ∧ i.OperandsIn w := by
  constructor
  · intro h
    unfold opcodeMap at h
    split at h
    case h_15 => cases h
    all_goals
      rename_i hopc
      cases h
      exact ⟨BitVec.eq_of_toNat_eq hopc, rfl, by simp [Instr.OperandsIn]⟩
  · rintro ⟨hopc, rfl, hoperands⟩
    cases i <;> simp only [Instr.OperandsIn] at hoperands <;>
      simp [opcodeMap, hopc, Instr.opcode, Instr.format, hoperands]

/-- R95 read the other way: what a word that decodes to a given command looks like. -/
theorem decode_eq_ok_iff (w : Word) (i : Instr) :
    decode w = .ok i ↔
      (fieldOpc w = i.opcode ∧ w &&& mustBeZero i.format = 0) ∧ i.OperandsIn w ∧ i.wellFormed = true := by
  constructor
  · intro h
    unfold decode at h
    split at h
    · cases h
    · rename_i f j hmap
      obtain ⟨hopc, rfl, hoperands⟩ := (opcodeMap_eq_some_iff w f j).1 hmap
      split at h
      · cases h
      · rename_i hzero
        split at h
        · rename_i hwf
          cases h
          exact ⟨⟨hopc, not_not.1 hzero⟩, hoperands, hwf⟩
        · cases h
  · rintro ⟨⟨hopc, hzero⟩, hoperands, hwf⟩
    have hmap := (opcodeMap_eq_some_iff w _ i).2 ⟨hopc, rfl, hoperands⟩
    simp [decode, hmap, hzero, hwf]

/-! ### Match and mask -/

/-- Adjacent fields of a word, put together. -/
theorem append_fields {n : Nat} (w : BitVec n) (a k l : Nat) :
    w.extractLsb' (a + k) l ++ w.extractLsb' a k = w.extractLsb' a (l + k) :=
  BitVec.extractLsb'_append_extractLsb'_eq_extractLsb' rfl

/-- A word is its OPC and the 24 bits above it. -/
theorem word_eq_iff (w v : Word) :
    w = v ↔ fieldOpc w = fieldOpc v ∧ w.extractLsb' 8 24 = v.extractLsb' 8 24 := by
  have hwhole (x : Word) : x.extractLsb' (0 + 8) 24 ++ fieldOpc x = x :=
    (append_fields x 0 8 24).trans BitVec.extractLsb'_eq_self
  refine ⟨fun h => h ▸ ⟨rfl, rfl⟩, fun ⟨hopc, hupper⟩ => ?_⟩
  rw [← hwhole w, ← hwhole v, hopc, Nat.zero_add, hupper]

/-- Comparing a word under a mask that covers OPC compares its OPC, and the bits the mask has above it with zero. -/
theorem and_mask_eq_iff {m : Word} (hm : fieldOpc m = 0) (w : Word) (o : BitVec 8) :
    w &&& (m ||| 0xFF) = (0 : BitVec 24) ++ o ↔ fieldOpc w = o ∧ w &&& m = 0 := by
  have hopc : fieldOpc ((0 : BitVec 24) ++ o) = o := BitVec.extractLsb'_append_eq_right
  have hupper : ((0 : BitVec 24) ++ o).extractLsb' 8 24 = 0 := BitVec.extractLsb'_append_eq_left
  rw [word_eq_iff, word_eq_iff (w &&& m), hopc, hupper]
  have hbyte (x : BitVec 8) : x &&& 255#8 = x := BitVec.and_allOnes
  simp only [fieldOpc] at hm
  simp [fieldOpc, BitVec.extractLsb'_and, BitVec.extractLsb'_or, hm, hbyte]

theorem fieldOpc_mustBeZero (f : WordFormat) : fieldOpc (mustBeZero f) = 0 := by cases f <;> decide

/-- R94: a word spells a command iff it agrees with the command's `match` under its `mask` and its operands are
those of the command, which is well-formed. -/
theorem decode_eq_ok_iff_match (w : Word) (i : Instr) :
    decode w = .ok i ↔
      w &&& (mustBeZero i.format ||| 0xFF) = (0 : BitVec 24) ++ i.opcode ∧
        i.OperandsIn w ∧ i.wellFormed = true := by
  rw [decode_eq_ok_iff, and_mask_eq_iff (fieldOpc_mustBeZero i.format)]

/-- The row of R94 for a command of format `f` and OPC `o`. -/
theorem decode_row (w : Word) (i : Instr) (f : WordFormat) (o : BitVec 8) (hf : i.format = f) (ho : i.opcode = o) :
    decode w = .ok i ↔
      w &&& (mustBeZero f ||| 0xFF) = (0 : BitVec 24) ++ o ∧ i.OperandsIn w ∧ i.wellFormed = true :=
  hf ▸ ho ▸ decode_eq_ok_iff_match w i

/-- The row of a command without an extra condition. -/
theorem decode_row_fields (w : Word) (i : Instr) (f : WordFormat) (o : BitVec 8) (hf : i.format = f)
    (ho : i.opcode = o) (hwf : i.wellFormed = true) :
    decode w = .ok i ↔ w &&& (mustBeZero f ||| 0xFF) = (0 : BitVec 24) ++ o ∧ i.OperandsIn w := by
  simp [decode_row w i f o hf ho, hwf]

/-- The row of a command without operands. -/
theorem decode_row_plain (w : Word) (i : Instr) (o : BitVec 8) (hf : i.format = .Z) (ho : i.opcode = o)
    (hoperands : i.OperandsIn w) (hwf : i.wellFormed = true) :
    decode w = .ok i ↔ w &&& (mustBeZero .Z ||| 0xFF) = (0 : BitVec 24) ++ o := by
  simp [decode_row_fields w i .Z o hf ho hwf, hoperands]

/-- Settles O3, row by row. -/
theorem wordSpellsCommand : Obligations.WordSpellsCommand := by
  intro w
  refine ⟨?nop, ?sreset, fun csr => ?csrw, fun csr => ?csrr, fun ew grp => ?vlreq, fun vsel => ?cld, fun vsel => ?cst,
    fun row => ?sld, fun mask => ?czero, fun row buf => ?cmac, fun row => ?wb, ?mm2, ?mm4, ?mm⟩
  case nop => exact decode_row_plain w .nop 0x00 rfl rfl trivial rfl
  case sreset => exact decode_row_plain w .sreset 0x01 rfl rfl trivial rfl
  case csrw => exact decode_row_fields w (.csrw csr) .C 0x08 rfl rfl rfl
  case csrr => exact decode_row_fields w (.csrr csr) .C 0x09 rfl rfl rfl
  case vlreq =>
    refine (decode_row w (.vlreq ew grp) .V 0x10 rfl rfl).trans (and_congr .rfl ?_)
    simp [Instr.OperandsIn, Instr.wellFormed, fieldEw, fieldGrp, and_assoc]
  case cld => exact (decode_row w (.cld vsel) .B 0x20 rfl rfl).trans (and_congr .rfl (and_congr .rfl bne_iff_ne))
  case cst => exact (decode_row w (.cst vsel) .B 0x21 rfl rfl).trans (and_congr .rfl (and_congr .rfl bne_iff_ne))
  case sld => exact decode_row_fields w (.sld row) .R 0x22 rfl rfl rfl
  case czero => exact decode_row_fields w (.czero mask) .K 0x30 rfl rfl rfl
  case cmac => exact decode_row_fields w (.cmac row buf) .RB 0x31 rfl rfl rfl
  case wb => exact decode_row_fields w (.wb row) .R 0x38 rfl rfl rfl
  case mm2 => exact decode_row_plain w .mm2 0x40 rfl rfl trivial rfl
  case mm4 => exact decode_row_plain w .mm4 0x41 rfl rfl trivial rfl
  case mm => exact decode_row_plain w .mm 0x42 rfl rfl trivial rfl

/-! ### The encoder -/

/-- OPC lies in the constant that ends each encoding. -/
theorem fieldOpc_encode (i : Instr) : fieldOpc (encode i) = i.opcode := by
  have hconstant {k n : Nat} (hi : BitVec k) {lo : BitVec n} {o : BitVec 8} (hn : 0 + 8 ≤ n)
      (ho : lo.extractLsb' 0 8 = o) : (hi ++ lo).extractLsb' 0 8 = o :=
    (BitVec.extractLsb'_append_eq_of_add_le hn).trans ho
  cases i with
  | nop => rfl
  | sreset => rfl
  | csrw csr => exact hconstant _ (by decide) rfl
  | csrr csr => exact hconstant _ (by decide) rfl
  | vlreq ew grp => exact hconstant _ (by decide) rfl
  | cld vsel => exact hconstant _ (by decide) rfl
  | cst vsel => exact hconstant _ (by decide) rfl
  | sld row => exact hconstant _ (by decide) rfl
  | czero mask => exact hconstant _ (by decide) rfl
  | cmac row buf => exact hconstant _ (by decide) rfl
  | wb row => exact hconstant _ (by decide) rfl
  | mm2 => rfl
  | mm4 => rfl
  | mm => rfl

/-- The operands of a command stand in the fields of its encoding. -/
theorem operandsIn_encode (i : Instr) : i.OperandsIn (encode i) := by
  cases i with
  | nop => trivial
  | sreset => trivial
  | csrw csr => exact BitVec.extractLsb'_append_eq_left.symm
  | csrr csr => exact BitVec.extractLsb'_append_eq_left.symm
  | vlreq ew grp => revert ew grp; simp only [Instr.OperandsIn]; decide
  | cld vsel => revert vsel; simp only [Instr.OperandsIn]; decide
  | cst vsel => revert vsel; simp only [Instr.OperandsIn]; decide
  | sld row => revert row; simp only [Instr.OperandsIn]; decide
  | czero mask => revert mask; simp only [Instr.OperandsIn]; decide
  | cmac row buf => revert row buf; simp only [Instr.OperandsIn]; decide
  | wb row => revert row; simp only [Instr.OperandsIn]; decide
  | mm2 => trivial
  | mm4 => trivial
  | mm => trivial

theorem requiredZero_opcode (i : Instr) : requiredZero i.opcode = mustBeZero i.format := by cases i <;> rfl

/-- The encoding leaves zero every bit that the command's format requires to be zero (R92). -/
theorem assignedOpcode_encode (i : Instr) : Laws.AssignedOpcode.Statement i := by
  cases i with
  | nop => exact Laws.AssignedOpcode.nop
  | sreset => exact Laws.AssignedOpcode.sreset
  | csrw csr => exact Laws.AssignedOpcode.csrw csr
  | csrr csr => exact Laws.AssignedOpcode.csrr csr
  | vlreq ew grp => exact Laws.AssignedOpcode.vlreq ew grp
  | cld vsel => exact Laws.AssignedOpcode.cld vsel
  | cst vsel => exact Laws.AssignedOpcode.cst vsel
  | sld row => exact Laws.AssignedOpcode.sld row
  | czero mask => exact Laws.AssignedOpcode.czero mask
  | cmac row buf => exact Laws.AssignedOpcode.cmac row buf
  | wb row => exact Laws.AssignedOpcode.wb row
  | mm2 => exact Laws.AssignedOpcode.mm2
  | mm4 => exact Laws.AssignedOpcode.mm4
  | mm => exact Laws.AssignedOpcode.mm

/-- Settles O1, by what a word that decodes to a command looks like. -/
theorem decodeEncodeRoundTrip : Obligations.DecodeEncodeRoundTrip := by
  intro i hwf
  obtain ⟨-, hzero⟩ := assignedOpcode_encode i
  rw [fieldOpc_encode, requiredZero_opcode] at hzero
  exact (decode_eq_ok_iff _ i).2 ⟨⟨fieldOpc_encode i, hzero⟩, operandsIn_encode i, hwf⟩

/-- Settles O5: the words are encodings. -/
theorem exampleWordsDecode : Obligations.ExampleWordsDecode :=
  ⟨decodeEncodeRoundTrip (.vlreq 2 0) rfl, decodeEncodeRoundTrip (.cld 0) rfl, decodeEncodeRoundTrip (.cst 0) rfl,
    decodeEncodeRoundTrip (.sld 1) rfl, decodeEncodeRoundTrip (.czero 3) rfl, decodeEncodeRoundTrip (.cmac 0 0) rfl,
    decodeEncodeRoundTrip (.wb 0) rfl, decodeEncodeRoundTrip (.csrw 0x000) rfl,
    decodeEncodeRoundTrip (.csrw 0x014) rfl, decodeEncodeRoundTrip (.csrr 0x007) rfl, decodeEncodeRoundTrip .mm rfl⟩

/-- Two adjacent fields of a word, each known, put together. -/
theorem append_eq_field {n a k l : Nat} {w : BitVec n} {x : BitVec l} {y : BitVec k}
    (hx : x = w.extractLsb' (a + k) l) (hy : y = w.extractLsb' a k) : x ++ y = w.extractLsb' a (l + k) := by
  rw [hx, hy, append_fields]

/-- The word is put together from the fields of its format, and between them the bits of its match. -/
theorem encode_eq_of_decode {w : Word} {i : Instr} (h : decode w = .ok i) : encode i = w := by
  obtain ⟨hmatch, hoperands, -⟩ := (decode_eq_ok_iff_match w i).1 h
  have hfixed (a n : Nat) (hm : (mustBeZero i.format ||| 0xFF).extractLsb' a n = BitVec.allOnes n) :
      ((0 : BitVec 24) ++ i.opcode).extractLsb' a n = w.extractLsb' a n := by
    rw [← hmatch, BitVec.extractLsb'_and, hm, BitVec.and_allOnes]
  rw [← BitVec.extractLsb'_eq_self (x := w)]
  cases i <;> simp only [Instr.format, Instr.opcode, Instr.OperandsIn] at hfixed hoperands
  case csrw csr => exact append_eq_field hoperands (hfixed 0 20 rfl)
  case csrr csr => exact append_eq_field hoperands (hfixed 0 20 rfl)
  case vlreq ew grp =>
    obtain ⟨hew, hgrp⟩ := hoperands
    exact append_eq_field (append_eq_field (append_eq_field (hfixed 20 12 rfl) hgrp) hew) (hfixed 0 16 rfl)
  case cld vsel => exact append_eq_field (append_eq_field (hfixed 12 20 rfl) hoperands) (hfixed 0 10 rfl)
  case cst vsel => exact append_eq_field (append_eq_field (hfixed 12 20 rfl) hoperands) (hfixed 0 10 rfl)
  case sld row => exact append_eq_field (append_eq_field (hfixed 10 22 rfl) hoperands) (hfixed 0 8 rfl)
  case czero mask => exact append_eq_field (append_eq_field (hfixed 16 16 rfl) hoperands) (hfixed 0 12 rfl)
  case cmac row buf =>
    obtain ⟨hrow, hbuf⟩ := hoperands
    exact append_eq_field (append_eq_field (append_eq_field (hfixed 11 21 rfl) hbuf) hrow) (hfixed 0 8 rfl)
  case wb row => exact append_eq_field (append_eq_field (hfixed 10 22 rfl) hoperands) (hfixed 0 8 rfl)
  -- the formats without operands: `match` is the whole word
  all_goals exact hfixed 0 32 rfl

/-- Settles O2. -/
theorem decodedWordIsItsEncoding : Obligations.DecodedWordIsItsEncoding := by
  intro w i hdecode
  obtain ⟨-, -, hwf⟩ := (decode_eq_ok_iff w i).1 hdecode
  exact ⟨hwf, encode_eq_of_decode hdecode⟩

/-! ### Illegal words -/

/-- Ground (1) of R95 fails iff the word's OPC and fields are those of some command, well-formed or not. -/
theorem fieldOpc_mem_assignedOpcodes_iff (w : Word) :
    fieldOpc w ∈ assignedOpcodes ↔ ∃ i : Instr, fieldOpc w = i.opcode ∧ i.OperandsIn w := by
  constructor
  · intro h
    simp only [assignedOpcodes, List.mem_cons, List.not_mem_nil, or_false] at h
    rcases h with h | h | h | h | h | h | h | h | h | h | h | h | h | h
    · exact ⟨.nop, h, trivial⟩
    · exact ⟨.sreset, h, trivial⟩
    · exact ⟨.csrw _, h, rfl⟩
    · exact ⟨.csrr _, h, rfl⟩
    · exact ⟨.vlreq _ _, h, rfl, rfl⟩
    · exact ⟨.cld _, h, rfl⟩
    · exact ⟨.cst _, h, rfl⟩
    · exact ⟨.sld _, h, rfl⟩
    · exact ⟨.czero _, h, rfl⟩
    · exact ⟨.cmac _ _, h, rfl, rfl⟩
    · exact ⟨.wb _, h, rfl⟩
    · exact ⟨.mm2, h, trivial⟩
    · exact ⟨.mm4, h, trivial⟩
    · exact ⟨.mm, h, trivial⟩
  · rintro ⟨i, hopc, -⟩
    rw [hopc]
    cases i <;> simp [Instr.opcode, assignedOpcodes]

/-- Ground (3) of R95 is that the command whose OPC and fields the word has is not well-formed. -/
theorem wellFormed_iff_of_operandsIn {w : Word} {i : Instr} (hopc : fieldOpc w = i.opcode)
    (hoperands : i.OperandsIn w) :
    i.wellFormed = true ↔
      ¬ ((fieldOpc w = 0x10 ∧ fieldEw w = 0) ∨
        ((fieldOpc w = 0x20 ∨ fieldOpc w = 0x21) ∧ fieldVsel w = 3)) := by
  cases i <;> simp only [Instr.OperandsIn] at hoperands <;> simp [Instr.wellFormed, hopc, Instr.opcode, hoperands]

/-- R95 is total: a word decodes or is illegal on one of the three grounds. -/
theorem decodes_iff_not_illegalWord (w : Word) : (∃ i, decode w = .ok i) ↔ ¬ illegalWord w := by
  constructor
  · rintro ⟨i, hdecode⟩
    obtain ⟨⟨hopc, hzero⟩, hoperands, hwf⟩ := (decode_eq_ok_iff w i).1 hdecode
    rintro (hunassigned | hnonzero | hreserved)
    · exact hunassigned ((fieldOpc_mem_assignedOpcodes_iff w).2 ⟨i, hopc, hoperands⟩)
    · rw [hopc, requiredZero_opcode] at hnonzero
      exact hnonzero hzero
    · exact (wellFormed_iff_of_operandsIn hopc hoperands).1 hwf hreserved
  · intro hlegal
    simp only [illegalWord, not_or, not_not] at hlegal
    obtain ⟨hassigned, hzero, hew, hvsel⟩ := hlegal
    obtain ⟨i, hopc, hoperands⟩ := (fieldOpc_mem_assignedOpcodes_iff w).1 hassigned
    rw [hopc, requiredZero_opcode] at hzero
    have hwf := (wellFormed_iff_of_operandsIn hopc hoperands).2 (not_or.2 ⟨hew, hvsel⟩)
    exact ⟨i, (decode_eq_ok_iff w i).2 ⟨⟨hopc, hzero⟩, hoperands, hwf⟩⟩

/-- Counted in four parts, so that each evaluates little. -/
theorem countP_assignedOpcodes :
    ((List.range 256).countP fun n => assignedOpcodes.contains (BitVec.ofNat 8 n)) = 14 := by
  rw [show 256 = 64 + 64 + 64 + 64 from rfl]
  simp only [List.range_add, List.countP_append, List.countP_map]
  decide

/-- 256 OPC values less the 14 of the map. -/
theorem unassigned_opcodes_length :
    ((List.range 256).filter fun n => !assignedOpcodes.contains (BitVec.ofNat 8 n)).length = 242 := by
  have htotal := List.length_eq_countP_add_countP (l := List.range 256)
    fun n => assignedOpcodes.contains (BitVec.ofNat 8 n)
  rw [countP_assignedOpcodes, List.length_range] at htotal
  simp only [Bool.not_eq_true, Bool.decide_eq_false] at htotal
  rw [← List.countP_eq_length_filter]
  omega

/-- Settles O4: an illegal word does not decode, and its step is the fault entry for `IllegalCmd`. -/
theorem illegalWordRaisesIllegalCmd : Obligations.IllegalWordRaisesIllegalCmd := by
  refine ⟨fun s c rest hinputs hfault hillegal => ?_, fun w => (decodes_iff_not_illegalWord w).2,
    unassigned_opcodes_length⟩
  cases hdecode : decode c.cmd with
  | ok i => exact absurd hillegal ((decodes_iff_not_illegalWord c.cmd).1 ⟨i, hdecode⟩)
  | error e =>
    rw [step_command hinputs, accept_error hdecode, raiseFault_running (by exact hfault)]
    rfl

end Sys2Proof
end

section
/-! The answer of a command (spec/30_encoding.md R100): it appends one response, of a command that completed with the
data its rule gives, or of one that faulted or was refused. -/

namespace Sys2Proof.Machine

/-! ### Registers by number -/

/-- The two readings of the register map of 10_state.md R31 agree: the register of a number is in the table under that
number, with its value. -/
theorem csrValue_mem_csrTable {csr : BitVec 12} {r : Csr} (h : csrOfNumber csr = some r) (s : State) :
    (csr, s.csrValue r) ∈ s.csrTable := by
  unfold csrOfNumber at h
  split at h
  case h_22 => cases h
  all_goals
    rename_i hnumber
    cases h
    have hcsr : csr = BitVec.ofNat 12 csr.toNat := by simp
    rw [hcsr, hnumber]
    simp [State.csrTable, State.csrValue]

/-! ### One response -/

/-- From `s` to `t` one response was appended: of a command that completed with data of which `P` holds, or of one that
faulted or was refused, the fault standing recorded. -/
inductive State.Replies (s : State) (P : DWord → Prop) (t : State) : Prop where
  | completed (d : DWord) (hdata : P d) (h : t.responses = { data := d, fault := false } :: s.responses)
  | faulted (h : t.responses = { data := 0, fault := true } :: s.responses) (hfault : t.fault = true)

section
variable {s t : State} {P : DWord → Prop} {W : List Part}

theorem Effect.responses (h : Effect W s t) : t.responses = s.responses :=
  h.keeps State.responses fun u v hu => by cases hu <;> simp

theorem raiseFault_responses (s : State) (c : Cause) (n : Nat) :
    (s.raiseFault c n).responses = { data := 0, fault := true } :: s.responses := by rw [raiseFault_frame]

theorem raiseFault_fault (s : State) (c : Cause) (n : Nat) : (s.raiseFault c n).fault = true := by
  rw [raiseFault_frame]

theorem raiseFault_replies (c : Cause) (n : Nat) : s.Replies P (s.raiseFault c n) :=
  .faulted (raiseFault_responses s c n) (raiseFault_fault s c n)

theorem unlessFaulted_replies {run : State → State} (h : s.Replies P (run s)) :
    s.Replies P (s.unlessFaulted run) := by
  cases hf : s.fault with
  | true => rw [unlessFaulted_faulted hf]; exact .faulted rfl hf
  | false => rwa [unlessFaulted_running hf]

/-- An operation run to its end as a command answers 0. -/
theorem finish_replies {m : Micro} (h : m.Does W none s) : s.Replies (· = 0) m.finish := by
  have hresponses := h.effect.responses
  cases m with
  | done u => exact .completed 0 rfl (congrArg _ hresponses)
  | raised c n u => exact .faulted ((raiseFault_responses u c n).trans (congrArg _ hresponses)) (raiseFault_fault u c n)
  | cut u => exact absurd rfl h.2

end

/-! ### The data of each command -/

/-- What R100 says of the data of a command that completed in the state `t`. -/
def answerData : Instr → State → DWord → Prop
  | .vlreq _ _, t, d => d = t.vl.setWidth 64
  | .csrr csr, t, d => (csr, d) ∈ t.csrTable
  | .nop, _, d => d = 0
  | .sreset, _, d => d = 0
  | .csrw _, _, d => d = 0
  | .cld _, _, d => d = 0
  | .cst _, _, d => d = 0
  | .sld _, _, d => d = 0
  | .czero _, _, d => d = 0
  | .cmac _ _, _, d => d = 0
  | .wb _, _, d => d = 0
  | .mm2, _, d => d = 0
  | .mm4, _, d => d = 0
  | .mm, _, d => d = 0

theorem answerData_other {i : Instr} (hvlreq : ∀ ew grp, i ≠ .vlreq ew grp) (hcsrr : ∀ csr, i ≠ .csrr csr)
    {t : State} {d : DWord} (h : answerData i t d) : d = 0 := by
  cases i with
  | vlreq ew grp => exact absurd rfl (hvlreq ew grp)
  | csrr csr => exact absurd rfl (hcsrr csr)
  | _ => exact h

/-- VLREQ faults or answers the length it granted. -/
theorem vlreq_replies (s : State) (ew grp : BitVec 2) {t : State} (h : execVlreq ew grp s = .next t) :
    s.Replies (answerData (.vlreq ew grp) t) t := by
  cases h
  cases hf : s.fault with
  | true => rw [unlessFaulted_faulted hf]; exact .faulted rfl hf
  | false =>
    rw [unlessFaulted_running hf]
    split
    · exact raiseFault_replies _ _
    · exact .completed _ rfl rfl

theorem exec_replies {i : Instr} {s t : State} (h : exec i s = .next t) : s.Replies (answerData i t) t := by
  cases i with
  | nop => cases h; exact unlessFaulted_replies (.completed 0 rfl rfl)
  | sreset => cases h; exact .completed 0 rfl rfl
  | csrw csr =>
    cases h
    refine unlessFaulted_replies ?_
    split
    · exact raiseFault_replies _ _
    · exact finish_replies (csrWrite_does none s _)
  | csrr csr =>
    cases h
    split
    · exact raiseFault_replies _ _
    · rename_i r hr
      exact .completed _ (csrValue_mem_csrTable hr s) rfl
  | vlreq ew grp => exact vlreq_replies s ew grp h
  | cld vsel => cases h; exact unlessFaulted_replies (finish_replies (runCld_does none s vsel))
  | cst vsel => cases h; exact unlessFaulted_replies (finish_replies (runCst_does none s vsel))
  | sld row => cases h; exact unlessFaulted_replies (finish_replies (runSld_does none s row))
  | czero mask => cases h; exact unlessFaulted_replies (finish_replies (runCzero_does none s mask))
  | cmac row buf => cases h; exact unlessFaulted_replies (finish_replies (runCmac_does none s row buf))
  | wb row => cases h; exact unlessFaulted_replies (finish_replies (runWb_does none s row))
  | mm2 => cases h; exact unlessFaulted_replies (finish_replies (runMm2_does none s))
  | mm4 => cases h; exact unlessFaulted_replies (finish_replies (runMm4_does none s))
  | mm => cases h; exact unlessFaulted_replies (finish_replies (runMm_does none s))

/-- An accepted record is answered once: a completed command with its data, an illegal word with a fault. -/
theorem accept_replies {s t : State} {c : Command} (h : s.accept c = .next t) :
    s.Replies (fun d => ∃ i, decode c.cmd = .ok i ∧ answerData i t d) t := by
  cases hd : decode c.cmd with
  | error e =>
    rw [accept_error hd] at h
    cases h
    exact .faulted (raiseFault_responses _ _ _) (raiseFault_fault _ _ _)
  | ok i =>
    rw [accept_ok hd] at h
    cases exec_replies h with
    | completed d hdata hresponses => exact .completed d ⟨i, rfl, hdata⟩ hresponses
    | faulted hresponses hfault => exact .faulted hresponses hfault

/-- Settles O9, by the one response with which the accepted record is answered. -/
theorem oneResponsePerCommand : Obligations.OneResponsePerCommand := by
  intro s t c rest hinputs hstep
  rw [step_command hinputs] at hstep
  cases accept_replies hstep with
  | completed d hdata hresponses =>
    obtain ⟨i, hdecode, hanswer⟩ := hdata
    refine ⟨_, hresponses, fun hfault => Bool.noConfusion hfault, fun _ => ⟨i, hdecode, ?_, ?_, ?_⟩⟩
    · rintro ew grp rfl; exact hanswer
    · rintro csr rfl; exact hanswer
    · exact fun hvlreq hcsrr => answerData_other hvlreq hcsrr hanswer
  | faulted hresponses hfault =>
    exact ⟨_, hresponses, fun _ => ⟨rfl, hfault⟩, fun hcompleted => Bool.noConfusion hcompleted⟩

end Sys2Proof.Machine
end

section
/-! The reserved operand `op_b` (spec/30_encoding.md R90) has no effect: to put another value in the record on the
command interface before an operation or after it is the same, for each operation of the model in turn and so for
every command. -/

namespace Sys2Proof.Machine

/-! ### Another `op_b` on the interface -/

/-- The state with another `op_b` in the record on the command interface. -/
def State.withOpB (b : DWord) (s : State) : State := { s with port := { s.port with opB := b } }

/-- The end of an operation, in that state. -/
def Micro.withOpB (b : DWord) : Micro → Micro
  | .done s => .done (s.withOpB b)
  | .raised c n s => .raised c n (s.withOpB b)
  | .cut s => .cut (s.withOpB b)

/-- The answer to a read, in that state. -/
def ReadAnswer.withOpB {w : Width} (b : DWord) : ReadAnswer w → ReadAnswer w
  | .data v s => .data v (s.withOpB b)
  | .error s => .error (s.withOpB b)
  | .cut s => .cut (s.withOpB b)

/-! ### Sequencing and checks -/

section
variable {b : DWord}

theorem ite_withOpB {p : Prop} [Decidable p] {m n m' n' : Micro} (hm : m' = m.withOpB b)
    (hn : n' = n.withOpB b) : (if p then m' else n') = (if p then m else n).withOpB b := by
  rw [hm, hn]
  exact (apply_ite (Micro.withOpB b) p m n).symm

theorem andThen_withOpB {m m' : Micro} {k : State → Micro} (hm : m' = m.withOpB b)
    (hk : ∀ u : State, k (u.withOpB b) = (k u).withOpB b) : m'.andThen k = (m.andThen k).withOpB b := by
  subst hm
  cases m with
  | done u => exact hk u
  | raised c n u => rfl
  | cut u => rfl

theorem needFormat_withOpB {s : State} {k k' : Format → Micro} (hk : ∀ f, k' f = (k f).withOpB b) :
    (s.withOpB b).needFormat k' = (s.needFormat k).withOpB b := by
  cases hf : s.format with
  | none => rw [needFormat_none hf, needFormat_none (by exact hf)]; rfl
  | some f => rw [needFormat_some hf, needFormat_some (by exact hf), hk]

theorem needVcfg_withOpB {s : State} {m m' : Micro} (hm : m' = m.withOpB b) (f : Format) (c : BitVec 2)
    (g : Bool) : (s.withOpB b).needVcfg f c g m' = (s.needVcfg f c g m).withOpB b := ite_withOpB hm rfl

theorem needAligned_withOpB {s : State} {m m' : Micro} (hm : m' = m.withOpB b) (f : Format) (a : Nat) :
    (s.withOpB b).needAligned f a m' = (s.needAligned f a m).withOpB b := ite_withOpB rfl hm

/-! ### The ends of a command -/

theorem raiseFault_withOpB (b : DWord) (s : State) (c : Cause) (n : Nat) :
    (s.withOpB b).raiseFault c n = (s.raiseFault c n).withOpB b := by
  cases hf : s.fault with
  | true => rw [raiseFault_faulted hf, raiseFault_faulted (by exact hf)]; rfl
  | false => rw [raiseFault_running hf, raiseFault_running (by exact hf)]; rfl

theorem finish_withOpB {m m' : Micro} (hm : m' = m.withOpB b) : m'.finish = m.finish.withOpB b := by
  subst hm
  cases m with
  | done u => rfl
  | raised c n u => exact raiseFault_withOpB b u c n
  | cut u => rfl

theorem unlessFaulted_withOpB {s : State} {run : State → State}
    (h : run (s.withOpB b) = (run s).withOpB b) :
    (s.withOpB b).unlessFaulted run = (s.unlessFaulted run).withOpB b := by
  cases hf : s.fault with
  | true => rw [unlessFaulted_faulted hf, unlessFaulted_faulted (by exact hf)]; rfl
  | false => rw [unlessFaulted_running hf, unlessFaulted_running (by exact hf), h]

end

/-! ### Requests, loads and stores -/

section
variable (b : DWord) (stop : Option Nat) (f : Format) (s : State)

theorem memRead_withOpB (a : Nat) (w : Width) :
    (s.withOpB b).memRead stop a w = (s.memRead stop a w).withOpB b := by
  rcases memRead_cases s stop a w with ⟨hstop, h⟩ | ⟨hstop, hadmits, h⟩ | ⟨hstop, hadmits, h⟩ <;> rw [h]
  · exact if_pos hstop
  · exact (if_neg hstop).trans (if_pos hadmits)
  · exact (if_neg hstop).trans (if_neg (by exact ne_true_of_eq_false hadmits))

theorem memWrite_withOpB (a : Nat) (w : Width) (v : BitVec w.bits) :
    (s.withOpB b).memWrite stop a w v = (s.memWrite stop a w v).withOpB b :=
  ite_withOpB rfl (ite_withOpB rfl rfl)

theorem setSlot_withOpB (d : SlotName) (x : LanePair) : (s.withOpB b).setSlot d x = (s.setSlot d x).withOpB b := by
  cases d <;> rfl

@[simp] theorem withOpB_slot (d : SlotName) : (s.withOpB b).slot d = s.slot d := by cases d <;> rfl
@[simp] theorem withOpB_reAddr (a i : Nat) : (s.withOpB b).reAddr f a i = s.reAddr f a i := rfl
@[simp] theorem withOpB_imAddr (a i : Nat) : (s.withOpB b).imAddr f a i = s.imAddr f a i := rfl

theorem loadElement_withOpB (d : SlotName) (a i : Nat) :
    loadElement stop f d a i (s.withOpB b) = (loadElement stop f d a i s).withOpB b := by
  simp only [loadElement, withOpB_reAddr, memRead_withOpB]
  cases s.memRead stop (s.reAddr f a i) f.storage with
  | cut u => rfl
  | error u => rfl
  | data re u =>
    simp only [ReadAnswer.withOpB, withOpB_imAddr, memRead_withOpB]
    cases u.memRead stop (u.imAddr f a i) f.storage with
    | cut v => rfl
    | error v => rfl
    | data im v => simp only [withOpB_slot, setSlot_withOpB, Micro.withOpB]

theorem loadElements_withOpB (d : SlotName) (a n : Nat) :
    loadElements stop f d a n (s.withOpB b) = (loadElements stop f d a n s).withOpB b := by
  induction n with
  | zero => rfl
  | succ n ih => exact andThen_withOpB ih fun u => loadElement_withOpB b stop f u d a n

theorem freeTarget_withOpB (d : SlotName) : (s.withOpB b).freeTarget f d = (s.freeTarget f d).withOpB b := by
  cases d <;> rfl

theorem vload_withOpB (d : SlotName) (a : Nat) :
    vload stop f d a (s.withOpB b) = (vload stop f d a s).withOpB b := by
  refine needAligned_withOpB ?_ f a
  rw [loadElements_withOpB, show (s.withOpB b).vl = s.vl from rfl]
  cases loadElements stop f d a s.vl.toNat s with
  | done u => rfl
  | raised c n u => exact congrArg (Micro.raised c n) (freeTarget_withOpB b f u d)
  | cut u => rfl

theorem storeElement_withOpB (d : SlotName) (a i : Nat) :
    storeElement stop f d a i (s.withOpB b) = (storeElement stop f d a i s).withOpB b := by
  simp only [storeElement, withOpB_slot]
  refine andThen_withOpB (memWrite_withOpB b stop s _ _ _) fun u => ?_
  simp only [withOpB_slot]
  exact memWrite_withOpB b stop u _ _ _

theorem storeElements_withOpB (d : SlotName) (a n : Nat) :
    storeElements stop f d a n (s.withOpB b) = (storeElements stop f d a n s).withOpB b := by
  induction n with
  | zero => rfl
  | succ n ih => exact andThen_withOpB ih fun u => storeElement_withOpB b stop f u d a n

theorem vstore_withOpB (d : SlotName) (a : Nat) :
    vstore stop f d a (s.withOpB b) = (vstore stop f d a s).withOpB b :=
  needAligned_withOpB (storeElements_withOpB b stop f s d a _) f a

theorem sload_withOpB (r : BitVec 2) (a : Nat) :
    sload stop f r a (s.withOpB b) = (sload stop f r a s).withOpB b := by
  refine needAligned_withOpB ?_ f a
  simp only [withOpB_reAddr, memRead_withOpB]
  cases s.memRead stop (s.reAddr f a 0) f.storage with
  | cut u => rfl
  | error u => rfl
  | data re u =>
    simp only [ReadAnswer.withOpB, withOpB_imAddr, memRead_withOpB]
    cases u.memRead stop (u.imAddr f a 0) f.storage <;> rfl

theorem writeback_withOpB (r : BitVec 2) (d : Nat) :
    writeback stop f r d (s.withOpB b) = (writeback stop f r d s).withOpB b :=
  andThen_withOpB (vload_withOpB b stop f s .wbs d) fun u =>
    vstore_withOpB b stop f { u with wbs := addLanes f (u.accRow r) u.vl.toNat u.wbs } .wbs d

/-! ### The accumulators -/

theorem zeroRow_withOpB (w : Width) (mask : BitVec 4) (r : BitVec 2) :
    (s.withOpB b).zeroRow w mask r = (s.zeroRow w mask r).withOpB b :=
  (apply_ite (State.withOpB b) _ (s.setAccRow r (zeroLanes w s.vl.toNat (s.accRow r))) s).symm

theorem czero_withOpB (w : Width) (mask : BitVec 4) : (s.withOpB b).czero w mask = (s.czero w mask).withOpB b := by
  simp only [State.czero, zeroRow_withOpB]

theorem cmac_withOpB (r : BitVec 2) (c : BitVec 1) : (s.withOpB b).cmac f r c = (s.cmac f r c).withOpB b := rfl

/-! ### Jobs -/

theorem forRows_withOpB {op : BitVec 2 → State → Micro}
    (hop : ∀ r (u : State), op r (u.withOpB b) = (op r u).withOpB b) (n : Nat) :
    forRows op n (s.withOpB b) = (forRows op n s).withOpB b := by
  induction n with
  | zero => rfl
  | succ n ih => exact andThen_withOpB ih (hop (BitVec.ofNat 2 n))

theorem blockStart_withOpB (rows : Nat) : (s.withOpB b).blockStart f rows = (s.blockStart f rows).withOpB b := by
  have hnegotiate ew grp : (s.withOpB b).negotiate (s.withOpB b).tileRemaining ew grp =
      (s.negotiate s.tileRemaining ew grp).withOpB b := rfl
  cases hw : f.widen with
  | true =>
    simp only [State.blockStart, hw, if_true, hnegotiate, czero_withOpB]
    rfl
  | false =>
    simp only [State.blockStart, hw, Bool.false_eq_true, if_false, hnegotiate, czero_withOpB]
    rfl

theorem jobInit_withOpB (rows : Nat) : jobInit stop f rows (s.withOpB b) = (jobInit stop f rows s).withOpB b := by
  rw [jobInit_eq_vload, jobInit_eq_vload, blockStart_withOpB]
  exact vload_withOpB b stop f _ _ _

theorem jobCoefficient_withOpB (r : BitVec 2) :
    jobCoefficient stop f r (s.withOpB b) = (jobCoefficient stop f r s).withOpB b := sload_withOpB b stop f s r _

theorem jobPrefetch_withOpB : jobPrefetch stop f (s.withOpB b) = (jobPrefetch stop f s).withOpB b :=
  ite_withOpB (vload_withOpB b stop f s _ _) rfl

theorem jobCmac_withOpB (r : BitVec 2) : jobCmac f r (s.withOpB b) = (jobCmac f r s).withOpB b := rfl

theorem jobHalf_withOpB (rows : Nat) : jobHalf stop f rows (s.withOpB b) = (jobHalf stop f rows s).withOpB b :=
  andThen_withOpB
    (andThen_withOpB
      (andThen_withOpB (forRows_withOpB b s (fun r u => jobCoefficient_withOpB b stop f u r) rows)
        fun u => jobPrefetch_withOpB b stop f u)
      fun u => forRows_withOpB b u (fun r v => jobCmac_withOpB b f v r) rows)
    fun _ => rfl

theorem jobSteady_withOpB (rows n : Nat) :
    jobSteady stop f rows n (s.withOpB b) = (jobSteady stop f rows n s).withOpB b := by
  induction n generalizing s with
  | zero => rfl
  | succ n ih => exact andThen_withOpB (jobHalf_withOpB b stop f s rows) fun u => ite_withOpB rfl (ih u)

theorem jobWriteback_withOpB (r : BitVec 2) :
    jobWriteback stop f r (s.withOpB b) = (jobWriteback stop f r s).withOpB b := writeback_withOpB b stop f s r _

theorem jobBlock_withOpB (rows : Nat) : jobBlock stop f rows (s.withOpB b) = (jobBlock stop f rows s).withOpB b :=
  andThen_withOpB
    (andThen_withOpB (jobInit_withOpB b stop f s rows) fun u => jobSteady_withOpB b stop f u rows _)
    fun u => forRows_withOpB b u (fun r v => jobWriteback_withOpB b stop f v r) rows

theorem jobBlocks_withOpB (rb n : Nat) :
    jobBlocks stop f rb n (s.withOpB b) = (jobBlocks stop f rb n s).withOpB b := by
  induction n generalizing s with
  | zero => rfl
  | succ n ih =>
    exact andThen_withOpB (jobBlock_withOpB b stop f s (s.blockRows rb)) fun u =>
      ite_withOpB rfl (ih { u with mCur := u.mCur + BitVec.ofNat 32 (s.blockRows rb) })

theorem jobTiles_withOpB (rb n : Nat) :
    jobTiles stop f rb n (s.withOpB b) = (jobTiles stop f rb n s).withOpB b := by
  induction n generalizing s with
  | zero => rfl
  | succ n ih =>
    exact andThen_withOpB (jobBlocks_withOpB b stop f { s with mCur := s.mStart } rb _) fun u =>
      ite_withOpB rfl (ih { u with pCur := u.pCur + u.vl })

theorem jobRun_withOpB (rb : Nat) : jobRun stop f rb (s.withOpB b) = (jobRun stop f rb s).withOpB b :=
  ite_withOpB rfl (jobTiles_withOpB b stop f { s with rbf := rb == 4, pCur := s.pStart } rb _)

end

/-! ### Commands -/

section
variable (b : DWord) (stop : Option Nat) (s : State)

theorem runCld_withOpB (vsel : BitVec 2) : runCld stop vsel (s.withOpB b) = (runCld stop vsel s).withOpB b := by
  unfold runCld
  split
  · rfl
  · exact needFormat_withOpB fun f => needVcfg_withOpB (vload_withOpB b stop f s _ _) f _ _

theorem runCst_withOpB (vsel : BitVec 2) : runCst stop vsel (s.withOpB b) = (runCst stop vsel s).withOpB b := by
  unfold runCst
  split
  · rfl
  · exact needFormat_withOpB fun f => needVcfg_withOpB (vstore_withOpB b stop f s _ _) f _ _

theorem runSld_withOpB (row : BitVec 2) : runSld stop row (s.withOpB b) = (runSld stop row s).withOpB b :=
  needFormat_withOpB fun f => sload_withOpB b stop f s row _

theorem runCzero_withOpB (mask : BitVec 4) : runCzero mask (s.withOpB b) = (runCzero mask s).withOpB b :=
  needFormat_withOpB fun f => needVcfg_withOpB (congrArg Micro.done (czero_withOpB b s f.acc mask)) f _ _

theorem runCmac_withOpB (row : BitVec 2) (buf : BitVec 1) :
    runCmac row buf (s.withOpB b) = (runCmac row buf s).withOpB b :=
  needFormat_withOpB fun f => needVcfg_withOpB (congrArg Micro.done (cmac_withOpB b f s row buf)) f _ _

theorem runWb_withOpB (row : BitVec 2) : runWb stop row (s.withOpB b) = (runWb stop row s).withOpB b :=
  needFormat_withOpB fun f => needVcfg_withOpB (writeback_withOpB b stop f s row _) f _ _

theorem runMm2_withOpB : runMm2 stop (s.withOpB b) = (runMm2 stop s).withOpB b :=
  needFormat_withOpB fun f => jobRun_withOpB b stop f s 2

theorem runMm4_withOpB : runMm4 stop (s.withOpB b) = (runMm4 stop s).withOpB b :=
  needFormat_withOpB fun f => jobRun_withOpB b stop f s 4

theorem runMm_withOpB : runMm stop (s.withOpB b) = (runMm stop s).withOpB b :=
  needFormat_withOpB fun f => jobRun_withOpB b stop f s.fullRanges s.dispatchFactor

theorem csrWrite_withOpB (r : Csr) : (s.withOpB b).csrWrite r = (s.csrWrite r).withOpB b := by
  cases r with
  | fmt => exact ite_withOpB rfl rfl
  | _ => rfl

theorem csrValue_withOpB (r : Csr) : (s.withOpB b).csrValue r = s.csrValue r := by cases r <;> rfl

end

theorem exec_withOpB {i : Instr} {s t : State} (h : exec i s = .next t) (b : DWord) :
    exec i (s.withOpB b) = .next (t.withOpB b) := by
  have hrun {run : State → Micro} (hr : run (s.withOpB b) = (run s).withOpB b) :
      (s.withOpB b).unlessFaulted (fun u => (run u).finish) =
        (s.unlessFaulted fun u => (run u).finish).withOpB b := unlessFaulted_withOpB (finish_withOpB hr)
  cases i with
  | nop => cases h; exact congrArg Host.Outcome.next (unlessFaulted_withOpB rfl)
  | sreset => cases h; rfl
  | csrw csr =>
    cases h
    refine congrArg Host.Outcome.next (unlessFaulted_withOpB ?_)
    split
    · exact raiseFault_withOpB b s _ _
    · exact finish_withOpB (csrWrite_withOpB b s _)
  | csrr csr =>
    cases h
    refine congrArg Host.Outcome.next ?_
    split
    · exact raiseFault_withOpB b s _ _
    · rw [csrValue_withOpB]; rfl
  | vlreq ew grp =>
    cases h
    refine congrArg Host.Outcome.next (unlessFaulted_withOpB ?_)
    split
    · exact raiseFault_withOpB b s _ _
    · rfl
  | cld vsel => cases h; exact congrArg Host.Outcome.next (hrun (runCld_withOpB b none s vsel))
  | cst vsel => cases h; exact congrArg Host.Outcome.next (hrun (runCst_withOpB b none s vsel))
  | sld row => cases h; exact congrArg Host.Outcome.next (hrun (runSld_withOpB b none s row))
  | czero mask => cases h; exact congrArg Host.Outcome.next (hrun (runCzero_withOpB b s mask))
  | cmac row buf => cases h; exact congrArg Host.Outcome.next (hrun (runCmac_withOpB b s row buf))
  | wb row => cases h; exact congrArg Host.Outcome.next (hrun (runWb_withOpB b none s row))
  | mm2 => cases h; exact congrArg Host.Outcome.next (hrun (runMm2_withOpB b none s))
  | mm4 => cases h; exact congrArg Host.Outcome.next (hrun (runMm4_withOpB b none s))
  | mm => cases h; exact congrArg Host.Outcome.next (hrun (runMm_withOpB b none s))

/-! ### The record stays on the interface -/

theorem exec_port {i : Instr} {s t : State} (h : exec i s = .next t) : t.port = s.port := by
  by_cases hsreset : i = .sreset
  · subst hsreset
    cases h
    rfl
  · exact (exec_runs h hsreset).keeps State.port (fun u v hu => by cases hu <;> simp) fun u v hu => by rw [hu.frame]

theorem accept_port {s t : State} {c : Command} (h : s.accept c = .next t) : t.port = c := by
  cases hd : decode c.cmd with
  | error e =>
    rw [accept_error hd, raiseFault_frame] at h
    cases h
    rfl
  | ok i =>
    rw [accept_ok hd] at h
    exact (exec_port h :)

/-- A record with another `op_b` is accepted with the same effect. -/
theorem accept_withOpB {s t : State} {c : Command} (h : s.accept c = .next t) (b : DWord) :
    s.accept { c with opB := b } = .next (t.withOpB b) := by
  cases hd : decode c.cmd with
  | error e =>
    rw [accept_error hd] at h
    cases h
    rw [accept_error (c := { c with opB := b }) hd]
    exact congrArg Host.Outcome.next (raiseFault_withOpB b { s with port := c } _ _)
  | ok i =>
    rw [accept_ok hd] at h
    rw [accept_ok (c := { c with opB := b }) hd]
    exact exec_withOpB h b

/-- Settles O48: the two records are accepted with the same effect, and each stays on the interface. -/
theorem opBIsIgnored : Obligations.OpBIsIgnored := by
  intro s t c b rest hstep
  rw [step_command rfl] at hstep ⊢
  rw [accept_withOpB hstep b, State.withOpB, accept_port hstep]

end Sys2Proof.Machine
end

section
/-! The negotiator (spec/40_vln.md): the longest length of a configuration, the grant of a length, the sweep over a
length by grants, and VLREQ. -/

namespace Sys2Proof.Machine

/-! ### The longest length (40_vln.md R121) -/

/-- `W(ew)` bits, at most 64, divide the register group, which is made of 64-bit units (00_scope.md R8). -/
theorem width_dvd_lanes (p : Config.Params) (ew grp : BitVec 2) : 8 * 2 ^ ew.toNat ∣ 2 ^ grp.toNat * p.vlen := by
  have hunit : 8 * 2 ^ ew.toNat ∣ 8 * 2 ^ 3 := Nat.mul_dvd_mul_left 8 (Nat.pow_dvd_pow 2 (by omega))
  exact (hunit.mul_right _).mul_left _

theorem vlmax_mul_width (p : Config.Params) (ew grp : BitVec 2) :
    vlmax p ew grp * (8 * 2 ^ ew.toNat) = 2 ^ grp.toNat * p.vlen :=
  Nat.div_mul_cancel (width_dvd_lanes p ew grp)

/-- The register group has at most `8 · 65536` bits, so a length fits the 32-bit register VL (40_vln.md R123). -/
theorem vlmax_lt (p : Config.Params) (ew grp : BitVec 2) : vlmax p ew grp < 2 ^ 32 := by
  have hgrp : 2 ^ grp.toNat ≤ 2 ^ 3 := Nat.pow_le_pow_right (by decide) (by omega)
  have hvlen : p.vlen ≤ 64 * 2 ^ 10 := Nat.mul_le_mul_left 64 (Nat.pow_le_pow_right (by decide) (by omega))
  calc vlmax p ew grp ≤ 2 ^ grp.toNat * p.vlen := Nat.div_le_self ..
    _ ≤ 2 ^ 3 * (64 * 2 ^ 10) := Nat.mul_le_mul hgrp hvlen
    _ < 2 ^ 32 := by decide

theorem toNat_succ_of_ne_three {x : BitVec 2} (h : x ≠ 3) : (x + 1).toNat = x.toNat + 1 := by bv_omega

/-- Both the width and the register group double, and their quotient stays (40_vln.md R126). -/
theorem vlmax_double (p : Config.Params) {ew grp : BitVec 2} (hew : ew ≠ 3) (hgrp : grp ≠ 3) :
    vlmax p (ew + 1) (grp + 1) = vlmax p ew grp := by
  have hdouble : 2 ^ (grp.toNat + 1) * p.vlen / (8 * 2 ^ (ew.toNat + 1)) =
      2 * (2 ^ grp.toNat * p.vlen) / (2 * (8 * 2 ^ ew.toNat)) := by congr 1 <;> ring
  unfold vlmax
  rw [toNat_succ_of_ne_three hew, toNat_succ_of_ne_three hgrp, hdouble, Nat.mul_div_mul_left _ _ (by decide)]

/-! ### The grant -/

section
variable (p : Config.Params) (ew grp : BitVec 2) {rem : Nat}

theorem grant_eq_self_iff : grant p rem ew grp = rem ↔ rem ≤ vlmax p ew grp := min_eq_left_iff

theorem grant_of_vlmax_le (h : vlmax p ew grp ≤ rem) : grant p rem ew grp = vlmax p ew grp := min_eq_right h

theorem grant_mono {a b : Nat} (h : a ≤ b) : grant p a ew grp ≤ grant p b ew grp := min_le_min_right _ h

theorem grant_pos (h : 0 < rem) : 0 < grant p rem ew grp := lt_min h (vlmax_pos p ew grp)

theorem grant_lt (rem : Nat) : grant p rem ew grp < 2 ^ 32 := (min_le_right ..).trans_lt (vlmax_lt p ew grp)

end

/-- Settles O23. -/
theorem grantBounds : Obligations.GrantBounds := by
  intro p ew grp rem _
  exact ⟨vlmax_mul_width p ew grp, vlmax_pos p ew grp, rfl, min_le_left .., grant_pos p ew grp, Nat.zero_min _⟩

/-- Settles O25: the grant depends on the configuration through the longest length alone. -/
theorem toggleKeepsLength : Obligations.ToggleKeepsLength := by
  intro p ew grp rem _ hew hgrp
  have hmax := vlmax_double p hew hgrp
  exact ⟨hmax, congrArg (min rem) hmax⟩

/-! ### The sweep (40_vln.md R125) -/

theorem sweep_zero (g : Nat → Nat) (n : Nat) : sweep g n 0 = [] := by cases n <;> rfl

theorem sweep_succ (g : Nat → Nat) (n : Nat) {rem : Nat} (h : 0 < rem) :
    sweep g (n + 1) rem = g rem :: sweep g n (rem - g rem) := if_neg h.ne'

/-- The tiles of a sweep: full ones, then one of the 1 to `VLMAX` elements that are left. -/
theorem sweep_grant (p : Config.Params) (ew grp : BitVec 2) {n rem : Nat} (hpos : 0 < rem) (hn : rem ≤ n) :
    sweep (fun r => grant p r ew grp) n rem =
      List.replicate ((rem - 1) / vlmax p ew grp) (vlmax p ew grp) ++ [(rem - 1) % vlmax p ew grp + 1] := by
  have hmax := vlmax_pos p ew grp
  induction n generalizing rem with
  | zero => omega
  | succ n ih =>
    rw [sweep_succ _ _ hpos]
    by_cases hlast : rem ≤ vlmax p ew grp
    · have hlt : rem - 1 < vlmax p ew grp := by omega
      rw [(grant_eq_self_iff p ew grp).2 hlast, Nat.sub_self, sweep_zero, Nat.div_eq_of_lt hlt, Nat.mod_eq_of_lt hlt,
        Nat.sub_add_cancel hpos]
      rfl
    · have hrest : rem - 1 = rem - vlmax p ew grp - 1 + vlmax p ew grp := by omega
      rw [grant_of_vlmax_le p ew grp (by omega), ih (by omega) (by omega), hrest, Nat.add_div_right _ hmax,
        Nat.add_mod_right]
      rfl

/-- Settles O24: nothing is swept at length 0, and a positive length in full tiles and a last one. -/
theorem sweepCoversLength : Obligations.SweepCoversLength := by
  intro p ew grp _
  refine ⟨fun _ _ => grant_mono p ew grp, fun _ => grant_eq_self_iff p ew grp, fun len => ?_⟩
  have hmax := vlmax_pos p ew grp
  rcases Nat.eq_zero_or_pos len with rfl | hpos
  · have hnone : (vlmax p ew grp - 1) / vlmax p ew grp = 0 := Nat.div_eq_of_lt (Nat.sub_one_lt hmax.ne')
    simp [sweep_zero, hnone]
  · rw [sweep_grant p ew grp hpos le_rfl]
    refine ⟨?_, ?_, fun v hv => ?_⟩
    · have hceil : len + vlmax p ew grp - 1 = len - 1 + vlmax p ew grp := by omega
      rw [hceil, Nat.add_div_right _ hmax]
      simp
    · have hparts := Nat.div_add_mod' (len - 1) (vlmax p ew grp)
      simp only [List.sum_append, List.sum_replicate, List.sum_singleton, smul_eq_mul]
      omega
    · rw [List.dropLast_concat] at hv
      exact List.eq_of_mem_replicate hv

/-! ### VLREQ (40_vln.md R123) -/

theorem exec_vlreq {s : State} (hfault : s.fault = false) {ew : BitVec 2} (hew : ew ≠ 0) (grp : BitVec 2) :
    exec (.vlreq ew grp) s =
      .next ((s.negotiate s.port.opA.toNat ew grp).respond
        ((s.negotiate s.port.opA.toNat ew grp).vl.setWidth 64)) := by
  change Host.Outcome.next (s.unlessFaulted _) = _
  rw [unlessFaulted_running hfault, if_neg hew]

/-- The register VL, zero-extended to the 64 bits of an answer, is the length granted. -/
theorem negotiate_vl_setWidth (s : State) (rem : Nat) (ew grp : BitVec 2) :
    (s.negotiate rem ew grp).vl.setWidth 64 = BitVec.ofNat 64 (grant s.params rem ew grp) :=
  BitVec.setWidth_ofNat_of_le_of_lt (by decide) (grant_lt s.params ew grp rem)

theorem decode_error_of_illegalWord {w : Word} (h : illegalWord w) : ∃ e, decode w = .error e := by
  cases hdecode : decode w with
  | ok i => exact absurd h ((decodes_iff_not_illegalWord w).1 ⟨i, hdecode⟩)
  | error e => exact ⟨e, rfl⟩

/-- A word with the OPC of VLREQ is illegal on grounds (2) and (3) of 30_encoding.md R95. -/
theorem illegalWord_of_vlreq {w : Word} (hopc : fieldOpc w = 0x10) (h : fieldEw w = 0 ∨ w &&& 0xFFF0FF00 ≠ 0) :
    illegalWord w := by
  rcases h with hew | hunused
  · exact .inr (.inr (.inl ⟨hopc, hew⟩))
  · refine .inr (.inl ?_)
    rwa [hopc]

/-- Settles O22: VLREQ answers what it negotiates. -/
theorem vlreqNegotiates : Obligations.VlreqNegotiates := by
  refine ⟨fun s ew grp hfault hew => ⟨?_, grant_lt s.params ew grp _⟩, fun w hopc h =>
    decode_error_of_illegalWord (illegalWord_of_vlreq hopc h)⟩
  rw [exec_vlreq hfault hew, negotiate_vl_setWidth]
  rfl

end Sys2Proof.Machine
end

section
/-! The checks of the six commands that need FMT, the round trip of CLD and CST, and SLD
(spec/41_loadstore.md R131, R134, R137, R138). -/

namespace Sys2Proof.Machine

theorem slotOfVsel_of_ne_three {vsel : BitVec 2} (h : vsel ≠ 3) : ∃ d, slotOfVsel vsel = some d := by
  have hnamed : ∀ v : BitVec 2, v ≠ 3 → (slotOfVsel v).isSome = true := by decide
  exact Option.isSome_iff_exists.1 (hnamed vsel h)

theorem next_unlessFaulted {s : State} (hfault : s.fault = false) (run : State → State) :
    (.next (s.unlessFaulted run) : Host.Outcome State Fault Refusal) = .next (run s) :=
  congrArg _ (unlessFaulted_running hfault run)

/-- A fault without an address, or with one that its cause records, ends the command in the fault state
(60_exceptions.md R262, R265). -/
theorem finish_raised_running {s : State} (hfault : s.fault = false) {c : Cause} {n : Nat}
    (haddr : c = .misaligned ∨ c = .accessFault ∨ n = 0) : (Micro.raised c n s).finish = s.faulted c n := by
  rw [finish_raised, raiseFault_running hfault]
  rcases haddr with rfl | rfl | rfl
  · rfl
  · rfl
  · simp [State.faulted]

/-! ### The checks (41_loadstore.md R131) -/

/-- Check (3) of a command: the one that `laneCheck` states of it, and none for SLD. -/
def State.needLaneCheck (s : State) (f : Format) (i : Instr) (m : Micro) : Micro :=
  match laneCheck f i with
  | none => m
  | some (c, g) => s.needVcfg f c g m

section
variable {s : State} {f : Format} {i : Instr}

theorem needLaneCheck_mismatch {c : BitVec 2} {g : Bool} (hcheck : laneCheck f i = some (c, g))
    (hmisfit : ¬ s.vcfgFits f c g) (m : Micro) : s.needLaneCheck f i m = .raised .vcfgMismatch 0 s := by
  rw [← vcfgOk_iff, Bool.not_eq_true] at hmisfit
  rw [State.needLaneCheck, hcheck]
  exact needVcfg_mismatch hmisfit m

theorem needLaneCheck_ok (hfits : ∀ c g, laneCheck f i = some (c, g) → s.vcfgFits f c g) (m : Micro) :
    s.needLaneCheck f i m = m := by
  unfold State.needLaneCheck
  cases hcheck : laneCheck f i with
  | none => rfl
  | some check => exact needVcfg_ok ((vcfgOk_iff ..).2 (hfits _ _ hcheck)) m

theorem vstore_misaligned {a : Nat} (d : SlotName) (ha : a % f.eb ≠ 0) :
    vstore none f d a s = .raised .misaligned a s := needAligned_misaligned ha _

theorem sload_misaligned {a : Nat} (row : BitVec 2) (ha : a % f.eb ≠ 0) :
    sload none f row a s = .raised .misaligned a s := needAligned_misaligned ha _

/-- A command that needs FMT makes the checks of FMT and of the configuration before its own work, and that work
begins, where elements are addressed, with the check of the alignment. -/
theorem exec_checks (hfault : s.fault = false) (hwf : i.wellFormed = true) (hi : usesFormat i) :
    ∃ work : Format → Micro,
      exec i s = .next (s.needFormat fun f => s.needLaneCheck f i (work f)).finish ∧
      ∀ f, addressesElements i → s.addrOperand % f.eb ≠ 0 → work f = .raised .misaligned s.addrOperand s := by
  have hrun := next_unlessFaulted hfault
  rcases hi with (⟨vsel, rfl⟩ | ⟨vsel, rfl⟩ | ⟨row, rfl⟩ | ⟨row, rfl⟩) | ⟨mask, rfl⟩ | ⟨row, buf, rfl⟩
  · obtain ⟨d, hslot⟩ := slotOfVsel_of_ne_three (bne_iff_ne.1 hwf)
    refine ⟨fun f => vload none f d s.addrOperand s, (hrun _).trans ?_, fun f _ h => vload_misaligned d h⟩
    rw [runCld, hslot]
    rfl
  · obtain ⟨d, hslot⟩ := slotOfVsel_of_ne_three (bne_iff_ne.1 hwf)
    refine ⟨fun f => vstore none f d s.addrOperand s, (hrun _).trans ?_, fun f _ h => vstore_misaligned d h⟩
    rw [runCst, hslot]
    rfl
  · exact ⟨fun f => sload none f row s.addrOperand s, hrun _, fun f _ h => sload_misaligned row h⟩
  · refine ⟨fun f => writeback none f row s.addrOperand s, hrun _, fun f _ h => ?_⟩
    exact writeback_read_refused row (vload_misaligned .wbs h)
  · exact ⟨fun f => .done (s.czero f.acc mask), hrun _, fun _ h => by simp [addressesElements] at h⟩
  · exact ⟨fun f => .done (s.cmac f row buf), hrun _, fun _ h => by simp [addressesElements] at h⟩

end

/-- Settles O26: each failing check ends the command where those before it passed. -/
theorem checksInOrder : Obligations.ChecksInOrder := by
  intro s i hfault hwf hi
  obtain ⟨work, hexec, hwork⟩ := exec_checks hfault hwf hi
  refine ⟨fun hfmt => ?_, fun f hformat => ⟨fun c g hcheck hmisfit => ?_, fun hfits haddr hmisaligned => ?_⟩⟩
  · rw [hexec, needFormat_none ((formatOf_eq_none s.fmt).2 hfmt), finish_raised_running hfault (.inr (.inr rfl))]
  · rw [hexec, needFormat_some hformat, needLaneCheck_mismatch hcheck hmisfit,
      finish_raised_running hfault (.inr (.inr rfl))]
  · rw [hexec, needFormat_some hformat, needLaneCheck_ok hfits, hwork f haddr hmisaligned,
      finish_raised_running hfault (.inl rfl)]

/-! ### CLD, then CST (41_loadstore.md R138) -/

/-- Writing back the value just read gives the same memory, in its canonical form. -/
theorem Memory.writeValue_readValue {m : Memory} (hwf : m.wf = true) {size n : Nat} (hn : n ≤ size) (a : Nat) :
    m.writeValue size a n (m.readValue size a n) = m :=
  Memory.ext (Memory.wf_writeBytes _ _ _ _ hwf) hwf fun x => Memory.read_writeValue_readValue m size a n x hn

/-- Storing lanes that hold the elements in memory gives the same memory. -/
theorem storedMem_eq_mem {s : State} (hwf : s.mem.wf = true) {f : Format} {x : LanePair} {a n : Nat}
    (hlanes : ∀ i < n, Slot.lane x.re f.storage i = s.reValue f a i ∧ Slot.lane x.im f.storage i = s.imValue f a i) :
    s.storedMem f x a n = s.mem := by
  induction n with
  | zero => rfl
  | succ n ih =>
    obtain ⟨hre, him⟩ := hlanes n n.lt_succ_self
    have hsame (addr : Nat) : s.mem.writeValue s.space addr f.storage.bytes (s.loadValue addr f.storage) = s.mem :=
      Memory.writeValue_readValue hwf (bytes_le_space s f.storage) addr
    rw [State.storedMem, ih fun i hi => hlanes i (hi.trans n.lt_succ_self), hre, him, State.reValue, State.imValue,
      hsame, hsame]

/-- The state in which CLD ends whose requests are all admitted. -/
def State.loaded (s : State) (f : Format) (d : SlotName) : State :=
  State.answered
    { s.setSlot d (s.loadedPair f s.addrOperand s.vl.toNat (s.slot d)) with
      trace := (s.loadRequests f s.addrOperand s.vl.toNat).reverse ++ s.trace } 0

section
variable {s : State} {f : Format} {vsel : BitVec 2} {d : SlotName} (hfault : s.fault = false)
  (hformat : s.format = some f) (hfits : s.vcfgFits f f.storage.code false) (hslot : slotOfVsel vsel = some d)
  (haligned : s.addrOperand % f.eb = 0)
include hfault hformat hfits hslot haligned

theorem exec_cld_ok (hadmits : s.admitsElements .read f s.addrOperand s.vl.toNat) :
    exec (.cld vsel) s = .next (s.loaded f d) := by
  rw [exec_cld hfault hformat hfits hslot, vload_ok d haligned hadmits]
  rfl

theorem exec_cst_ok (hadmits : s.admitsElements .write f s.addrOperand s.vl.toNat) :
    exec (.cst vsel) s = .next (State.answered
      { s with
        mem := s.storedMem f (s.slot d) s.addrOperand s.vl.toNat
        trace := (s.storeRequests f (s.slot d) s.addrOperand s.vl.toNat).reverse ++ s.trace } 0) := by
  rw [exec_cst hfault hformat hfits hslot, vstore_ok d haligned hadmits]
  rfl

end

theorem loaded_slot (s : State) (f : Format) (d : SlotName) :
    (s.loaded f d).slot d = s.loadedPair f s.addrOperand s.vl.toNat (s.slot d) := by
  cases d with
  | wbs => rfl
  | bbuf b => simp [State.loaded, State.answered, State.slot, State.setSlot]

/-- The lanes that CLD leaves hold the elements in memory, so storing them changes nothing. -/
theorem loaded_storedMem {s : State} (hinv : s.Inv) {f : Format} (hfits : s.vcfgFits f f.storage.code false)
    (d : SlotName) :
    (s.loaded f d).storedMem f ((s.loaded f d).slot d) (s.loaded f d).addrOperand (s.loaded f d).vl.toNat =
      s.mem := by
  have haddr : (s.loaded f d).addrOperand = s.addrOperand := by cases d <;> rfl
  have hvl : (s.loaded f d).vl = s.vl := setSlot_vl ..
  have hmem : (s.loaded f d).mem = s.mem := setSlot_mem ..
  have hparams : (s.loaded f d).params = s.params := setSlot_params ..
  obtain ⟨-, -, hlanes, -⟩ := loadedPair_updated s s.addrOperand (hinv.slotSized d) (lanes_le_vlen hinv hfits)
  rw [loaded_slot, haddr, hvl, storedMem_congr hmem hparams]
  exact storedMem_eq_mem hinv.memWf hlanes

/-- Settles O31: CST finds the checks, the address and the requests as CLD did, and stores what CLD loaded. -/
theorem loadThenStoreRestoresMemory : Obligations.LoadThenStoreRestoresMemory := by
  intro s f vsel hinv hfault hformat hfits hvsel haligned hadmits
  obtain ⟨d, hslot⟩ := slotOfVsel_of_ne_three hvsel
  have hstore := exec_cst_ok (s := s.loaded f d) (by cases d <;> exact hfault) (by cases d <;> exact hformat)
    (by cases d <;> exact hfits) hslot (by cases d <;> exact haligned) (by cases d <;> exact hadmits .write)
  exact ⟨_, _, exec_cld_ok hfault hformat hfits hslot haligned (hadmits .read), hstore,
    loaded_storedMem hinv hfits d, (setSlot_fault ..).trans hfault⟩

/-! ### SLD (41_loadstore.md R137) -/

section
variable {s : State} {f : Format} {a : Nat} (r : BitVec 2)

theorem sload_re_refused (ha : a % f.eb = 0) (hre : s.admits .read (s.reAddr f a 0) f.storage = false) :
    sload none f r a s = .raised .accessFault (s.reAddr f a 0)
      ((s.logRequest (refusedRead (s.reAddr f a 0) f.storage)).freeScal r) := by
  rcases sload_cases f r a s with ⟨hmisaligned, -⟩ | ⟨-, hok, -⟩ | ⟨-, -, hends⟩ | ⟨-, hok, -⟩
  · exact absurd ha hmisaligned
  · exact absurd (hok 0 one_pos).1 (by simp [hre])
  · exact hends
  · exact absurd hok (by simp [hre])

theorem sload_im_refused (ha : a % f.eb = 0) (hre : s.admits .read (s.reAddr f a 0) f.storage = true)
    (him : s.admits .read (s.imAddr f a 0) f.storage = false) :
    sload none f r a s = .raised .accessFault (s.imAddr f a 0)
      (((s.logRequest (s.readRequest (s.reAddr f a 0) f.storage)).logRequest
        (refusedRead (s.imAddr f a 0) f.storage)).freeScal r) := by
  rcases sload_cases f r a s with ⟨hmisaligned, -⟩ | ⟨-, hok, -⟩ | ⟨-, hrefused, -⟩ | ⟨-, -, -, hends⟩
  · exact absurd ha hmisaligned
  · exact absurd (hok 0 one_pos).2 (by simp [him])
  · exact absurd hre (by simp [hrefused])
  · exact hends

end

theorem exec_sld {s : State} {f : Format} (hfault : s.fault = false) (hformat : s.format = some f) (row : BitVec 2) :
    exec (.sld row) s = .next (sload none f row s.addrOperand s).finish := by
  change Host.Outcome.next (s.unlessFaulted fun s => (runSld none row s).finish) = _
  rw [unlessFaulted_running hfault, runSld, needFormat_some hformat]

/-- Settles O32: no check of the configuration stands between FMT and the load (41_loadstore.md R134). -/
theorem sldLoadsCoefficient : Obligations.SldLoadsCoefficient := by
  intro s f row hfault hformat
  have hexec := exec_sld hfault hformat row
  refine ⟨fun hmisaligned => ?_, fun haligned hadmits => ?_, fun haligned hre => ?_, fun haligned hre him => ?_⟩
  · rw [hexec, sload_misaligned row hmisaligned, finish_raised_running hfault (.inl rfl)]
  · rw [hexec, sload_ok row haligned hadmits]
    rfl
  · exact ⟨_, _, exec_accessFault hexec (sload_re_refused row haligned hre) hfault⟩
  · exact ⟨_, _, exec_accessFault hexec (sload_im_refused row haligned hre him) hfault⟩

end Sys2Proof.Machine
end

section
/-! The commands CZERO and CMAC (spec/42_cmac.md R151 to R156): the lanes of the accumulators they replace, and what
they keep. -/

namespace Sys2Proof.Machine

/-! ### The negotiated lanes fit the accumulators, at the accumulator width (40_vln.md R121, R124) -/

/-- Lanes `k` times as wide as the negotiated width fit a slot when `k` times the group is at most 8 slots. -/
theorem lanes_le_vlen_of_group (p : Config.Params) {w : Width} {g : BitVec 2} {n k : Nat}
    (hn : n ≤ vlmax p w.code g) (hk : k * 2 ^ g.toNat ≤ 8) : n * (k * w.bytes) ≤ p.vlen := by
  have hgroup : n * (8 * w.bytes) ≤ 2 ^ g.toNat * p.vlen :=
    calc n * (8 * w.bytes) = n * (8 * 2 ^ w.code.toNat) := by rw [width_bytes_eq]
      _ ≤ vlmax p w.code g * (8 * 2 ^ w.code.toNat) := Nat.mul_le_mul_right _ hn
      _ = 2 ^ g.toNat * p.vlen := vlmax_mul_width ..
  refine Nat.le_of_mul_le_mul_left (c := 8) ?_ (by decide)
  calc 8 * (n * (k * w.bytes)) = k * (n * (8 * w.bytes)) := by ring
    _ ≤ k * (2 ^ g.toNat * p.vlen) := Nat.mul_le_mul_left _ hgroup
    _ = k * 2 ^ g.toNat * p.vlen := (Nat.mul_assoc ..).symm
    _ ≤ 8 * p.vlen := Nat.mul_le_mul_right _ hk

theorem wider_bytes_le (w : Width) : w.wider.bytes ≤ 2 * w.bytes := by cases w <;> decide

theorem format_acc {s : State} {f : Format} (hformat : s.format = some f) :
    f.acc = if f.widen then f.storage.wider else f.storage := by
  obtain ⟨w, -, rfl⟩ := Option.map_eq_some_iff.1 hformat
  rfl

section
variable {s : State} {f : Format} (hinv : s.Inv)
include hinv

/-- A length negotiated at the accumulator width fits at every grouping. -/
theorem accLanes_le_vlen (hfits : s.vcfgFits f f.acc.code false) : s.vl.toNat * f.acc.bytes ≤ s.params.vlen := by
  obtain ⟨hvalid, hsew, -⟩ := hfits
  obtain ⟨-, hvl⟩ := hinv.negotiated hvalid
  have hgroup : ∀ g : BitVec 2, 1 * 2 ^ g.toNat ≤ 8 := by decide
  simpa only [Nat.one_mul] using lanes_le_vlen_of_group s.params (hsew ▸ hvl) (hgroup s.vgrp)

/-- A length negotiated at the storage width fits widened too: the largest grouping is refused then. -/
theorem widenedLanes_le_vlen (hformat : s.format = some f) (hfits : s.vcfgFits f f.storage.code true) :
    s.vl.toNat * f.acc.bytes ≤ s.params.vlen := by
  have hacc := format_acc hformat
  cases hwiden : f.widen with
  | false =>
    have hsame : f.acc = f.storage := by simpa [hwiden] using hacc
    rw [hsame]
    exact lanes_le_vlen hinv hfits
  | true =>
    have hwider : f.acc = f.storage.wider := by simpa [hwiden] using hacc
    obtain ⟨hvalid, hsew, hgrp⟩ := hfits
    obtain ⟨-, hvl⟩ := hinv.negotiated hvalid
    have hgroup : ∀ g : BitVec 2, g ≠ 3 → 2 * 2 ^ g.toNat ≤ 8 := by decide
    calc s.vl.toNat * f.acc.bytes ≤ s.vl.toNat * (2 * f.storage.bytes) :=
          Nat.mul_le_mul_left _ (hwider ▸ wider_bytes_le f.storage)
      _ ≤ s.params.vlen :=
          lanes_le_vlen_of_group s.params (hsew ▸ hvl) (hgroup _ fun h => hgrp ⟨rfl, hwiden, h⟩)

end

/-! ### The accumulators' lanes -/

theorem zeroLanes_updated {p : Config.Params} {x : LanePair} {w : Width} {n : Nat} (hx : x.sized p)
    (hn : n * w.bytes ≤ p.vlen) : x.updated (zeroLanes w n x) w n fun _ => (0, 0) :=
  updateElements_updated _ (hx.1 ▸ hn) (hx.2 ▸ hn)

/-- The lanes of CMAC, operand by operand, are those of R151 on complex values. -/
theorem cmacLanes_updated {p : Config.Params} {x : LanePair} {f : Format} {n : Nat} (hx : x.sized p)
    (hn : n * f.acc.bytes ≤ p.vlen) (a : BitVec f.storage.bits × BitVec f.storage.bits) (b : LanePair) :
    x.updated (cmacLanes f (toAcc f a.1) (toAcc f a.2) b n x) f.acc n fun i =>
      cmac1 f (Slot.lane x.re f.acc i, Slot.lane x.im f.acc i) a
        (Slot.lane b.re f.storage i, Slot.lane b.im f.storage i) :=
  updateElements_updated _ (hx.1 ▸ hn) (hx.2 ▸ hn)

theorem cmac_accRow_same (s : State) (f : Format) (r : BitVec 2) (b : BitVec 1) :
    (s.cmac f r b).accRow r =
      cmacLanes f (toAcc f ((s.scalRow r).re.setWidth f.storage.bits))
        (toAcc f ((s.scalRow r).im.setWidth f.storage.bits)) (s.slot (.bbuf b)) s.vl.toNat (s.accRow r) :=
  accRow_setAccRow_same ..

theorem cmac_accRow_ne (s : State) (f : Format) {r q : BitVec 2} (b : BitVec 1) (h : r ≠ q) :
    (s.cmac f r b).accRow q = s.accRow q := accRow_setAccRow_ne _ _ h

/-! ### The commands, their checks passed -/

section
variable {s : State} {f : Format} (hfault : s.fault = false) (hformat : s.format = some f)
include hfault hformat

theorem exec_czero (mask : BitVec 4) (hfits : s.vcfgFits f f.acc.code false) :
    exec (.czero mask) s = .next ((s.czero f.acc mask).answered 0) := by
  change Host.Outcome.next (s.unlessFaulted fun s => (runCzero mask s).finish) = _
  rw [next_unlessFaulted hfault, runCzero, needFormat_some hformat, needVcfg_ok ((vcfgOk_iff ..).2 hfits),
    finish_done]
  rfl

theorem exec_cmac (row : BitVec 2) (buf : BitVec 1) (hfits : s.vcfgFits f f.storage.code true) :
    exec (.cmac row buf) s = .next ((s.cmac f row buf).answered 0) := by
  change Host.Outcome.next (s.unlessFaulted fun s => (runCmac row buf s).finish) = _
  rw [next_unlessFaulted hfault, runCmac, needFormat_some hformat, needVcfg_ok ((vcfgOk_iff ..).2 hfits),
    finish_done]
  rfl

end

/-! ### The obligations -/

/-- Settles O33: `czero` clears the lanes of each row of the mask, and they fit its slots. -/
theorem czeroClearsLanes : Obligations.CzeroClearsLanes := by
  intro s f mask hinv hfault hformat hfits
  refine ⟨_, exec_czero hfault hformat mask hfits, congrArg (State.answered · 0) (czero_frame s f.acc mask),
    fun r => ⟨fun hmask => ?_, fun hmask => ?_⟩⟩
  · change (s.accRow r).updated ((s.czero f.acc mask).accRow r) _ _ _
    rw [czero_accRow, if_pos hmask]
    exact zeroLanes_updated (hinv.accSized r) (accLanes_le_vlen hinv hfits)
  · change (s.czero f.acc mask).accRow r = _
    rw [czero_accRow, if_neg (by simp [hmask])]

/-- Settles O34: the fused operations of each lane are done in place, and the widened lanes fit the row's slots. -/
theorem cmacAccumulates : Obligations.CmacAccumulates := by
  intro s f row buf hinv hfault hformat hfits
  refine ⟨_, exec_cmac hfault hformat row buf hfits, rfl, ?_, fun r hr => cmac_accRow_ne s f buf hr.symm⟩
  change (s.accRow row).updated ((s.cmac f row buf).accRow row) _ _ _
  rw [cmac_accRow_same]
  exact cmacLanes_updated (hinv.accSized row) (widenedLanes_le_vlen hinv hformat hfits) (_, _) _

end Sys2Proof.Machine
end

section
/-! A job command before its loop nest: the check of FMT and the test for an empty range (spec/43_scheduler.md R173,
spec/45_dispatch_control.md R210). -/

namespace Sys2Proof.Machine

/-- A job command runs the job of its factor on its ranges, once FMT is configured (43_scheduler.md R173, R181, R182,
45_dispatch_control.md R210). -/
theorem exec_isJob {s u : State} {i : Instr} {rb : Nat} (hfault : s.fault = false) (hjob : jobOf s i = some (rb, u)) :
    exec i s = .next (s.needFormat fun f => jobRun none f rb u).finish := by
  cases i with
  | mm2 => cases hjob; exact next_unlessFaulted hfault _
  | mm4 => cases hjob; exact next_unlessFaulted hfault _
  | mm => cases hjob; exact next_unlessFaulted hfault _
  | _ => cases hjob

/-- A job with an empty range writes the factor flag and is done (43_scheduler.md R173). -/
theorem jobRun_empty {s : State} (stop : Option Nat) (f : Format) (rb : Nat)
    (h : s.mEnd.toNat ≤ s.mStart.toNat ∨ s.pEnd.toNat ≤ s.pStart.toNat) :
    jobRun stop f rb s = .done { s with rbf := rb == 4 } := if_pos h

/-- Settles O38: the check of FMT comes before the ranges are written, the test for an empty range before any
request. -/
theorem emptyJobDoesNothing : Obligations.EmptyJobDoesNothing := by
  intro s u i rb hfault hjob
  refine ⟨fun hfmt => ?_, fun hfmt hempty => ?_⟩
  · rw [exec_isJob hfault hjob, needFormat_none ((formatOf_eq_none s.fmt).2 hfmt),
      finish_raised_running hfault (.inr (.inr rfl))]
  · obtain ⟨f, hformat⟩ : ∃ f, s.format = some f :=
      Option.ne_none_iff_exists'.1 (mt (formatOf_eq_none s.fmt).1 hfmt)
    rw [exec_isJob hfault hjob, needFormat_some hformat, jobRun_empty none f rb hempty]
    rfl

end Sys2Proof.Machine
end

section
/-! How an operation of a job ends, as a triple: with its requests admitted and a condition on the state reached, or
with a fault for which the last request or the address answers (spec/20_memory.md R66, spec/43_scheduler.md R187). -/

namespace Sys2Proof.Machine

/-! ### Ends of an operation -/

/-- From `s` to `t` requests were made, all of them admitted. -/
def State.Admitted (s t : State) : Prop := ∃ made, t.trace = made ++ s.trace ∧ ∀ q ∈ made, q.ok = true

/-- From `s` to `t` requests were made, all of them admitted but the last, at the address `n`. -/
def State.RefusedAt (n : Nat) (s t : State) : Prop :=
  ∃ r rest, t.trace = r :: rest ++ s.trace ∧ r.ok = false ∧ r.addr = n ∧ ∀ q ∈ rest, q.ok = true

/-- The operation, run from `s`, ends done with `Q` of the state reached, or with an address that is not aligned and of
which `P` holds, or with a refused request; no other fault is raised, and it is not cut. -/
def Micro.Ends (P : Nat → Prop) (Q : State → Prop) (s : State) : Micro → Prop
  | .done t => s.Admitted t ∧ Q t
  | .raised c n t => c = .misaligned ∧ P n ∧ s.Admitted t ∨ c = .accessFault ∧ s.RefusedAt n t
  | .cut _ => False

section
variable {P P' : Nat → Prop} {Q Q' : State → Prop} {s t u : State} {m : Micro} {n : Nat}

theorem State.Admitted.of_trace (h : t.trace = s.trace) : s.Admitted t := ⟨[], h, by simp⟩

theorem State.Admitted.refl (s : State) : s.Admitted s := .of_trace rfl

theorem State.Admitted.trans (hst : s.Admitted t) (htu : t.Admitted u) : s.Admitted u := by
  obtain ⟨made, htrace, hok⟩ := hst
  obtain ⟨made', htrace', hok'⟩ := htu
  refine ⟨made' ++ made, by rw [htrace', htrace, List.append_assoc], fun q hq => ?_⟩
  exact (List.mem_append.1 hq).elim (hok' q) (hok q)

theorem State.RefusedAt.after (hst : s.Admitted t) (htu : t.RefusedAt n u) : s.RefusedAt n u := by
  obtain ⟨made, htrace, hok⟩ := hst
  obtain ⟨r, rest, htrace', hr, hn, hok'⟩ := htu
  refine ⟨r, rest ++ made, by simp [htrace', htrace], hr, hn, fun q hq => ?_⟩
  exact (List.mem_append.1 hq).elim (hok' q) (hok q)

/-- Requests admitted before an operation count with its own. -/
theorem Micro.Ends.after (hst : s.Admitted t) (h : m.Ends P Q t) : m.Ends P Q s := by
  cases m with
  | done u => exact ⟨hst.trans h.1, h.2⟩
  | raised c n u =>
    rcases h with ⟨hc, hP, hu⟩ | ⟨hc, hu⟩
    · exact .inl ⟨hc, hP, hst.trans hu⟩
    · exact .inr ⟨hc, .after hst hu⟩
  | cut u => exact h

theorem Micro.Ends.mono (h : m.Ends P Q s) (hP : ∀ n, P n → P' n) (hQ : ∀ t, Q t → Q' t) : m.Ends P' Q' s := by
  cases m with
  | done u => exact ⟨h.1, hQ u h.2⟩
  | raised c n u =>
    rcases h with ⟨hc, hn, hu⟩ | h
    · exact .inl ⟨hc, hP n hn, hu⟩
    · exact .inr h
  | cut u => exact h

theorem Micro.Ends.andThen {k : State → Micro} (h : m.Ends P Q s) (hk : ∀ u, Q u → (k u).Ends P Q' u) :
    (m.andThen k).Ends P Q' s := by
  cases m with
  | done u => exact (hk u h.2).after h.1
  | raised c n u => exact h
  | cut u => exact h

/-- Rows in ascending order: `I k` holds before row `k` and after the rows below it. -/
theorem forRows_ends {op : BitVec 2 → State → Micro} {I : Nat → State → Prop} {rows : Nat} (hI : I 0 s)
    (hop : ∀ k < rows, ∀ u, I k u → (op (BitVec.ofNat 2 k) u).Ends P (I (k + 1)) u) :
    (forRows op rows s).Ends P (I rows) s := by
  induction rows with
  | zero => exact ⟨.refl s, hI⟩
  | succ k ih => exact (ih fun l hl => hop l (by omega)).andThen (hop k k.lt_succ_self)

end

/-! ### Loads, stores and the write-back -/

section
variable (f : Format) (s : State)

theorem loadRequests_ok (a n : Nat) : ∀ q ∈ s.loadRequests f a n, q.ok = true := by
  induction n with
  | zero => simp [State.loadRequests]
  | succ n ih =>
    simp only [State.loadRequests, List.mem_append, List.mem_cons, List.not_mem_nil, or_false]
    rintro q (hq | rfl | rfl)
    · exact ih q hq
    · rfl
    · rfl

theorem storeRequests_ok (x : LanePair) (a n : Nat) : ∀ q ∈ s.storeRequests f x a n, q.ok = true := by
  induction n with
  | zero => simp [State.storeRequests]
  | succ n ih =>
    simp only [State.storeRequests, List.mem_append, List.mem_cons, List.not_mem_nil, or_false]
    rintro q (hq | rfl | rfl)
    · exact ih q hq
    · rfl
    · rfl

/-- The state in which `vload` ends done. -/
def State.vloaded (s : State) (f : Format) (d : SlotName) (a : Nat) : State :=
  { s.setSlot d (s.loadedPair f a s.vl.toNat (s.slot d)) with
    trace := (s.loadRequests f a s.vl.toNat).reverse ++ s.trace }

/-- The state in which `sload` ends done. -/
def State.sloaded (s : State) (f : Format) (r : BitVec 2) (a : Nat) : State :=
  { s.setScalRow r { re := (s.reValue f a 0).setWidth 64, im := (s.imValue f a 0).setWidth 64 } with
    trace := s.readRequest (s.imAddr f a 0) f.storage :: s.readRequest (s.reAddr f a 0) f.storage :: s.trace }

/-- The state in which `writeback` ends done. -/
def State.wroteBack (s : State) (f : Format) (r : BitVec 2) (a : Nat) : State :=
  { s with
    wbs := s.summedPair f r a
    mem := s.storedMem f (s.summedPair f r a) a s.vl.toNat
    trace := (s.storeRequests f (s.summedPair f r a) a s.vl.toNat).reverse ++
      ((s.loadRequests f a s.vl.toNat).reverse ++ s.trace) }

theorem vload_ends (d : SlotName) (a : Nat) :
    (vload none f d a s).Ends (fun n => a % f.eb ≠ 0 ∧ n = a) (fun t => a % f.eb = 0 ∧ t = s.vloaded f d a) s := by
  rcases vload_cases f d a s with ⟨ha, h⟩ | ⟨ha, -, h⟩ | ⟨-, k, -, -, ⟨-, h⟩ | ⟨-, -, h⟩⟩ <;> rw [h]
  · exact .inl ⟨rfl, ⟨ha, rfl⟩, .refl s⟩
  · exact ⟨⟨_, rfl, by simpa using loadRequests_ok f s a _⟩, ha, rfl⟩
  · exact .inr ⟨rfl, _, _, freeTarget_trace .., rfl, rfl, by simpa using loadRequests_ok f s a k⟩
  · refine .inr ⟨rfl, _, _ :: _, freeTarget_trace .., rfl, rfl, ?_⟩
    simpa [State.readRequest] using loadRequests_ok f s a k

theorem sload_ends (r : BitVec 2) (a : Nat) :
    (sload none f r a s).Ends (fun n => a % f.eb ≠ 0 ∧ n = a) (fun t => a % f.eb = 0 ∧ t = s.sloaded f r a) s := by
  rcases sload_cases f r a s with ⟨ha, h⟩ | ⟨ha, -, h⟩ | ⟨-, -, h⟩ | ⟨-, -, -, h⟩ <;> rw [h]
  · exact .inl ⟨rfl, ⟨ha, rfl⟩, .refl s⟩
  · exact ⟨⟨[_, _], rfl, by simp [State.readRequest]⟩, ha, rfl⟩
  · exact .inr ⟨rfl, _, [], rfl, rfl, rfl, by simp⟩
  · exact .inr ⟨rfl, _, [_], rfl, rfl, rfl, by simp [State.readRequest]⟩

theorem writeback_ends (r : BitVec 2) (a : Nat) :
    (writeback none f r a s).Ends (fun n => a % f.eb ≠ 0 ∧ n = a) (fun t => a % f.eb = 0 ∧ t = s.wroteBack f r a)
      s := by
  have hok (k : Nat) : ∀ q ∈ (s.storeRequests f (s.summedPair f r a) a k).reverse ++
      (s.loadRequests f a s.vl.toNat).reverse, q.ok = true := fun q hq => by
    rcases List.mem_append.1 hq with hq | hq
    · exact storeRequests_ok f s _ a k q (List.mem_reverse.1 hq)
    · exact loadRequests_ok f s a _ q (List.mem_reverse.1 hq)
  rcases writeback_cases f r a s with
    ⟨ha, h⟩ | ⟨ha, -, -, h⟩ | ⟨c, n, t, hload, h⟩ | ⟨-, -, k, -, -, ⟨-, h⟩ | ⟨-, -, h⟩⟩ <;> rw [h]
  · exact .inl ⟨rfl, ⟨ha, rfl⟩, .refl s⟩
  · exact ⟨⟨_, (List.append_assoc ..).symm, hok _⟩, ha, rfl⟩
  · have hread := vload_ends f s .wbs a
    rw [hload] at hread
    exact hread
  · exact .inr ⟨rfl, _, _, congrArg _ (List.append_assoc ..).symm, rfl, rfl, hok k⟩
  · refine .inr ⟨rfl, _, _ :: _, congrArg (_ :: _ :: ·) (List.append_assoc ..).symm, rfl, rfl, fun q hq => ?_⟩
    rcases List.mem_cons.1 hq with rfl | hq
    · rfl
    · exact hok k q hq

end

end Sys2Proof.Machine
end

section
/-! How a job faults (spec/43_scheduler.md R187): with a refused request, the last one made; or, in its first block, at
the first address of the first of the arrays B, A, C whose base is not aligned. Once a block is done all three bases are
known to be aligned. -/

namespace Sys2Proof.Machine

/-! ### What a job leaves alone -/

/-- From `s` to `t` nothing has changed but what the scheduler and its micro-operations write. -/
structure State.JobFrame (s t : State) : Prop where
  frame : t = { s with
    acc := t.acc, bbuf := t.bbuf, wbs := t.wbs, scal := t.scal
    vl := t.vl, vsew := t.vsew, vgrp := t.vgrp, vlvalid := t.vlvalid
    cur := t.cur, rbf := t.rbf, pCur := t.pCur, mCur := t.mCur, nCur := t.nCur
    mem := t.mem, trace := t.trace }

section
variable {s t u : State} {f : Format}

theorem State.JobFrame.refl (s : State) : s.JobFrame s := ⟨rfl⟩

theorem State.JobFrame.trans (hst : s.JobFrame t) (htu : t.JobFrame u) : s.JobFrame u := by
  constructor
  calc u = _ := htu.frame
    _ = { s with
          acc := u.acc, bbuf := u.bbuf, wbs := u.wbs, scal := u.scal
          vl := u.vl, vsew := u.vsew, vgrp := u.vgrp, vlvalid := u.vlvalid
          cur := u.cur, rbf := u.rbf, pCur := u.pCur, mCur := u.mCur, nCur := u.nCur
          mem := u.mem, trace := u.trace } := by rw [hst.frame]

theorem State.JobFrame.params (h : s.JobFrame t) : t.params = s.params := (congrArg State.params h.frame :)

theorem State.JobFrame.dimN (h : s.JobFrame t) : t.dimN = s.dimN := (congrArg State.dimN h.frame :)

theorem State.JobFrame.inElements (h : s.JobFrame t) : t.inElements f = s.inElements f := by rw [h.frame]; rfl

theorem State.JobFrame.addrA (h : s.JobFrame t) : t.addrA f = s.addrA f := by rw [h.frame]; rfl

theorem State.JobFrame.addrB (h : s.JobFrame t) : t.addrB f = s.addrB f := by rw [h.frame]; rfl

theorem State.JobFrame.addrC (h : s.JobFrame t) : t.addrC f = s.addrC f := by rw [h.frame]; rfl

/-- Lane work within a block of at most four rows names no row beyond it. -/
theorem laneWork_of_frame (h : t = { s with
    acc := t.acc, bbuf := t.bbuf, wbs := t.wbs, scal := t.scal, mem := t.mem, trace := t.trace }) :
    s.LaneWork 4 t := ⟨h, fun r hr => absurd r.isLt (by omega)⟩

theorem State.LaneWork.jobFrame {n : Nat} (h : s.LaneWork n t) : s.JobFrame t := by
  constructor
  rw [h.frame]

theorem State.LaneWork.mCur {n : Nat} (h : s.LaneWork n t) : t.mCur = s.mCur := (congrArg State.mCur h.frame :)

theorem State.LaneWork.pCur {n : Nat} (h : s.LaneWork n t) : t.pCur = s.pCur := (congrArg State.pCur h.frame :)

theorem vloaded_laneWork (s : State) (f : Format) (d : SlotName) (a : Nat) : s.LaneWork 4 (s.vloaded f d a) :=
  laneWork_of_frame (by cases d <;> rfl)

theorem sloaded_laneWork (s : State) (f : Format) (r : BitVec 2) (a : Nat) : s.LaneWork 4 (s.sloaded f r a) :=
  laneWork_of_frame rfl

theorem wroteBack_laneWork (s : State) (f : Format) (r : BitVec 2) (a : Nat) : s.LaneWork 4 (s.wroteBack f r a) :=
  laneWork_of_frame rfl

theorem cmac_laneWork (s : State) (f : Format) (r : BitVec 2) (b : BitVec 1) : s.LaneWork 4 (s.cmac f r b) :=
  laneWork_of_frame rfl

end

/-! ### Aligned bases -/

/-- The bases of B, A and C are multiples of `EB` (20_memory.md R64). -/
structure State.BasesAligned (s : State) (f : Format) : Prop where
  b : s.bbase.toNat % f.eb = 0
  a : s.abase.toNat % f.eb = 0
  c : s.cbase.toNat % f.eb = 0

/-- `n` is the first address, for the block at row `i` and column `j`, in the first of B, A, C whose base is not
aligned. -/
def State.FirstMisaligned (s : State) (f : Format) (i j n : Nat) : Prop :=
  (s.bbase.toNat % f.eb ≠ 0 ∧ n = s.addrB f 0 j) ∨
  (s.bbase.toNat % f.eb = 0 ∧ s.abase.toNat % f.eb ≠ 0 ∧ n = s.addrA f i 0) ∨
  (s.bbase.toNat % f.eb = 0 ∧ s.abase.toNat % f.eb = 0 ∧ s.cbase.toNat % f.eb ≠ 0 ∧ n = s.addrC f i j)

section
variable {s t : State} {f : Format} {i j n : Nat}

theorem State.BasesAligned.of_jobFrame (hst : s.JobFrame t) (h : t.BasesAligned f) : s.BasesAligned f := by
  rw [hst.frame] at h
  exact { h with }

theorem State.BasesAligned.not_firstMisaligned (h : s.BasesAligned f) : ¬ s.FirstMisaligned f i j n := by
  rintro (⟨hb, -⟩ | ⟨-, ha, -⟩ | ⟨-, -, hc, -⟩)
  · exact hb h.b
  · exact ha h.a
  · exact hc h.c

theorem State.FirstMisaligned.of_jobFrame (hst : s.JobFrame t) (h : t.FirstMisaligned f i j n) :
    s.FirstMisaligned f i j n := by
  rw [hst.frame] at h
  exact h

/-- The element addresses of a view are aligned exactly where its base is. -/
theorem elementAddr_mod (s : State) (f : Format) (base k : Nat) :
    (base + k * f.cb) % s.space % f.eb = base % f.eb := by
  rw [Nat.mod_mod_of_dvd _ (eb_dvd_space s f), Format.cb, ← Nat.mul_assoc, Nat.add_mul_mod_self_right]

theorem addrB_mod (s : State) (f : Format) (k j : Nat) : s.addrB f k j % f.eb = s.bbase.toNat % f.eb :=
  elementAddr_mod s f _ _

theorem addrA_mod (s : State) (f : Format) (i k : Nat) : s.addrA f i k % f.eb = s.abase.toNat % f.eb :=
  elementAddr_mod s f _ _

theorem addrC_mod (s : State) (f : Format) (i j : Nat) : s.addrC f i j % f.eb = s.cbase.toNat % f.eb :=
  elementAddr_mod s f _ _

/-! ### One block -/

/-- A row operation at an address of one array: the first row finds out whether the array's base is aligned. -/
theorem forRows_ends_aligned {op : BitVec 2 → State → Micro} {base rows : Nat} {addr : Nat → Nat} (hrows : 1 ≤ rows)
    (hop : ∀ r u, s.LaneWork 4 u →
      (op r u).Ends (fun n => base % f.eb ≠ 0 ∧ n = addr r.toNat) (fun t => base % f.eb = 0 ∧ u.LaneWork 4 t) u) :
    (forRows op rows s).Ends (fun n => base % f.eb ≠ 0 ∧ n = addr 0) (fun t => base % f.eb = 0 ∧ s.LaneWork 4 t) s := by
  have hloop := forRows_ends (s := s) (op := op) (rows := rows) (P := fun n => base % f.eb ≠ 0 ∧ n = addr 0)
    (I := fun k t => s.LaneWork 4 t ∧ (0 < k → base % f.eb = 0)) ⟨.refl 4 s, by simp⟩ fun k hk u hu => ?_
  · exact hloop.mono (fun _ => id) fun t ht => ⟨ht.2 hrows, ht.1⟩
  · obtain ⟨hwork, hbase⟩ := hu
    refine (hop _ u hwork).mono (fun n hn => ?_) fun t ht => ⟨hwork.trans ht.2, fun _ => ht.1⟩
    obtain ⟨hmis, hn⟩ := hn
    rcases Nat.eq_zero_or_pos k with rfl | hpos
    · exact ⟨hmis, hn⟩
    · exact absurd (hbase hpos) hmis

theorem jobCoefficients_ends {rows : Nat} (hrows : 1 ≤ rows) :
    (forRows (jobCoefficient none f) rows s).Ends
      (fun n => s.abase.toNat % f.eb ≠ 0 ∧ n = s.addrA f s.mCur.toNat s.nCur.toNat)
      (fun t => s.abase.toNat % f.eb = 0 ∧ s.LaneWork 4 t) s := by
  refine forRows_ends_aligned (addr := fun r => s.addrA f (s.mCur.toNat + r) s.nCur.toNat) hrows fun r u hu => ?_
  have hload := sload_ends f u r (s.addrA f (s.mCur.toNat + r.toNat) s.nCur.toNat)
  simp only [addrA_mod] at hload
  rw [jobCoefficient, hu.jobFrame.addrA, hu.mCur, hu.nCur]
  exact hload.mono (fun _ => id) fun t ht => ⟨ht.1, ht.2 ▸ sloaded_laneWork ..⟩

theorem jobWritebacks_ends {rows : Nat} (hrows : 1 ≤ rows) :
    (forRows (jobWriteback none f) rows s).Ends
      (fun n => s.cbase.toNat % f.eb ≠ 0 ∧ n = s.addrC f s.mCur.toNat s.pCur.toNat)
      (fun t => s.cbase.toNat % f.eb = 0 ∧ s.LaneWork 4 t) s := by
  refine forRows_ends_aligned (addr := fun r => s.addrC f (s.mCur.toNat + r) s.pCur.toNat) hrows fun r u hu => ?_
  have hstore := writeback_ends f u r (s.addrC f (s.mCur.toNat + r.toNat) s.pCur.toNat)
  simp only [addrC_mod] at hstore
  rw [jobWriteback, hu.jobFrame.addrC, hu.mCur, hu.pCur]
  exact hstore.mono (fun _ => id) fun t ht => ⟨ht.1, ht.2 ▸ wroteBack_laneWork ..⟩

theorem jobCmacs_ends {P : Nat → Prop} (rows : Nat) : (forRows (jobCmac f) rows s).Ends P (s.LaneWork 4) s :=
  forRows_ends (I := fun _ => s.LaneWork 4) (.refl 4 s) fun _ _ u hu =>
    ⟨.of_trace rfl, hu.trans (cmac_laneWork u f _ u.cur)⟩

theorem jobPrefetch_ends {P : Nat → Prop} (hb : s.bbase.toNat % f.eb = 0) :
    (jobPrefetch none f s).Ends P (s.LaneWork 4) s := by
  unfold jobPrefetch
  split
  · refine (vload_ends f s _ _).mono (fun n hn => ?_) fun t ht => ht.2 ▸ vloaded_laneWork ..
    rw [addrB_mod] at hn
    exact absurd hb hn.1
  · exact ⟨.refl s, .refl 4 s⟩

/-- A half-iteration: the coefficient of its first row finds out whether A is aligned. -/
theorem jobHalf_ends {rows : Nat} (hrows : 1 ≤ rows) (hb : s.bbase.toNat % f.eb = 0) :
    (jobHalf none f rows s).Ends
      (fun n => s.abase.toNat % f.eb ≠ 0 ∧ n = s.addrA f s.mCur.toNat s.nCur.toNat)
      (fun t => s.abase.toNat % f.eb = 0 ∧ s.advanceIndex.LaneWork 4 t) s := by
  have hprefetch := (jobCoefficients_ends hrows (s := s) (f := f)).andThen (k := jobPrefetch none f)
    (Q' := fun t => s.abase.toNat % f.eb = 0 ∧ s.LaneWork 4 t) fun u hu => by
      have hb' : u.bbase.toNat % f.eb = 0 := by rw [hu.2.frame]; exact hb
      exact (jobPrefetch_ends hb').mono (fun _ => id) fun t ht => ⟨hu.1, hu.2.trans ht⟩
  have hengine := hprefetch.andThen (k := forRows (jobCmac f) rows)
    (Q' := fun t => s.abase.toNat % f.eb = 0 ∧ s.LaneWork 4 t) fun u hu =>
      (jobCmacs_ends rows).mono (fun _ => id) fun t ht => ⟨hu.1, hu.2.trans ht⟩
  exact hengine.andThen fun u hu => ⟨.of_trace rfl, hu.1, hu.2.advanceIndex⟩

/-- From `s` to `t` the job has not moved to another block. -/
structure State.SameBlock (s t : State) : Prop extends s.JobFrame t where
  mCur : t.mCur = s.mCur
  pCur : t.pCur = s.pCur

theorem State.LaneWork.sameBlock {k : Nat} (h : s.LaneWork k t) : s.SameBlock t := ⟨h.jobFrame, h.mCur, h.pCur⟩

theorem advanceIndex_sameBlock (s : State) : s.SameBlock s.advanceIndex := ⟨⟨rfl⟩, rfl, rfl⟩

theorem blockStart_sameBlock (s : State) (f : Format) (rows : Nat) : s.SameBlock (s.blockStart f rows) :=
  ⟨⟨rfl⟩, rfl, rfl⟩

theorem State.SameBlock.trans {u : State} (hst : s.SameBlock t) (htu : t.SameBlock u) : s.SameBlock u :=
  ⟨hst.toJobFrame.trans htu.toJobFrame, htu.mCur.trans hst.mCur, htu.pCur.trans hst.pCur⟩

theorem jobSteady_ends {rows fuel : Nat} (hrows : 1 ≤ rows) (hfuel : 1 ≤ fuel) (hb : s.bbase.toNat % f.eb = 0) :
    (jobSteady none f rows fuel s).Ends
      (fun n => s.abase.toNat % f.eb ≠ 0 ∧ n = s.addrA f s.mCur.toNat s.nCur.toNat)
      (fun t => s.abase.toNat % f.eb = 0 ∧ s.SameBlock t) s := by
  induction fuel generalizing s with
  | zero => omega
  | succ fuel ih =>
    refine (jobHalf_ends hrows hb).andThen fun u hu => ?_
    obtain ⟨ha, hwork⟩ := hu
    have hsame := (advanceIndex_sameBlock s).trans hwork.sameBlock
    split
    · exact ⟨.refl u, ha, hsame⟩
    · rcases Nat.eq_zero_or_pos fuel with rfl | hpos
      · exact ⟨.refl u, ha, hsame⟩
      · have ha' : u.abase.toNat % f.eb = 0 := by rw [hsame.frame]; exact ha
        have hb' : u.bbase.toNat % f.eb = 0 := by rw [hsame.frame]; exact hb
        exact (ih hpos hb').mono (fun n hn => absurd ha' hn.1) fun t ht => ⟨ha, hsame.trans ht.2⟩

theorem halfIterations_pos (s : State) : 1 ≤ s.halfIterations := by
  unfold State.halfIterations
  split
  · exact Nat.one_le_two_pow
  · rename_i hne
    exact Nat.one_le_iff_ne_zero.2 fun h0 => hne (BitVec.eq_of_toNat_eq h0)

/-- Init: its load finds out whether B is aligned. -/
theorem jobInit_ends (s : State) (f : Format) (rows : Nat) :
    (jobInit none f rows s).Ends (fun n => s.bbase.toNat % f.eb ≠ 0 ∧ n = s.addrB f 0 s.pCur.toNat)
      (fun t => s.bbase.toNat % f.eb = 0 ∧ (s.blockStart f rows).LaneWork 4 t) s := by
  have hstart := blockStart_sameBlock s f rows
  have hload := vload_ends f (s.blockStart f rows) (.bbuf 0) (s.addrB f 0 s.pCur.toNat)
  rw [jobInit_eq_vload, hstart.addrB]
  simp only [addrB_mod] at hload
  exact (hload.mono (fun _ => id) fun t ht => ⟨ht.1, ht.2 ▸ vloaded_laneWork ..⟩).after (.of_trace rfl)

/-- A block: it ends done only where all three bases are aligned. -/
theorem jobBlock_ends {rows : Nat} (hrows : 1 ≤ rows) :
    (jobBlock none f rows s).Ends (s.FirstMisaligned f s.mCur.toNat s.pCur.toNat)
      (fun t => s.JobFrame t ∧ s.BasesAligned f) s := by
  have hinit := (jobInit_ends s f rows).mono (P' := s.FirstMisaligned f s.mCur.toNat s.pCur.toNat)
    (fun n hn => .inl hn) fun _ => id
  have hsteady := hinit.andThen (k := fun u => jobSteady none f rows u.halfIterations u)
    (Q' := fun t => s.bbase.toNat % f.eb = 0 ∧ s.abase.toNat % f.eb = 0 ∧ s.SameBlock t) fun u hu => by
      obtain ⟨hb, hwork⟩ := hu
      have hsame := (blockStart_sameBlock s f rows).trans hwork.sameBlock
      have hbases : u.bbase = s.bbase ∧ u.abase = s.abase := by rw [hsame.frame]; exact ⟨rfl, rfl⟩
      have hnCur : u.nCur = 0 := hwork.nCur
      have h := jobSteady_ends hrows (halfIterations_pos u) (by rwa [hbases.1])
      rw [hsame.addrA, hsame.mCur, hnCur, hbases.2] at h
      exact h.mono (fun n hn => .inr (.inl ⟨hb, hn⟩)) fun t ht => ⟨hb, ht.1, hsame.trans ht.2⟩
  refine hsteady.andThen fun u hu => ?_
  obtain ⟨hb, ha, hsame⟩ := hu
  have hbase : u.cbase = s.cbase := by rw [hsame.frame]
  have h := jobWritebacks_ends hrows (s := u) (f := f)
  rw [hsame.addrC, hsame.mCur, hsame.pCur, hbase] at h
  exact h.mono (fun n hn => .inr (.inr ⟨hb, ha, hn⟩)) fun t ht =>
    ⟨hsame.toJobFrame.trans ht.2.jobFrame, hb, ha, ht.1⟩

/-! ### The loop nest -/

theorem setMCur_jobFrame (s : State) (x : Word) : s.JobFrame { s with mCur := x } := ⟨rfl⟩

theorem setPCur_jobFrame (s : State) (x : Word) : s.JobFrame { s with pCur := x } := ⟨rfl⟩

/-- Where all bases are aligned, what is left of the loop nest meets no address that is not. -/
theorem Micro.Ends.of_aligned {m : Micro} {P : Nat → Prop} {Q : State → Prop} {u : State}
    (h : m.Ends (t.FirstMisaligned f i j) t.JobFrame t) (htrace : t.trace = u.trace) (hframe : s.JobFrame t)
    (haligned : s.BasesAligned f) (hQ : ∀ v, s.JobFrame v → Q v) : m.Ends P Q u :=
  (h.mono (fun _ hn => absurd (hn.of_jobFrame hframe) haligned.not_firstMisaligned) fun v hv =>
    hQ v (hframe.trans hv)).after (.of_trace htrace)

theorem jobBlocks_ends {rb fuel : Nat} (hrb : 1 ≤ rb) (hrow : s.mCur.toNat < s.mEnd.toNat) :
    (jobBlocks none f rb fuel s).Ends (s.FirstMisaligned f s.mCur.toNat s.pCur.toNat)
      (fun t => s.JobFrame t ∧ (0 < fuel → s.BasesAligned f)) s := by
  induction fuel generalizing s with
  | zero => exact ⟨.refl s, .refl s, by simp⟩
  | succ fuel ih =>
    refine (jobBlock_ends (blockRows_bounds hrb hrow).1).andThen fun u hu => ?_
    obtain ⟨hframe, haligned⟩ := hu
    have hnext := hframe.trans (setMCur_jobFrame u (u.mCur + BitVec.ofNat 32 (s.blockRows rb)))
    dsimp only
    split
    · exact ⟨.of_trace rfl, hnext, fun _ => haligned⟩
    · rename_i hmore
      have hrest := ih (s := { u with mCur := u.mCur + BitVec.ofNat 32 (s.blockRows rb) }) (Nat.lt_of_not_le hmore)
      exact (hrest.mono (fun _ => id) fun _ => And.left).of_aligned rfl hnext haligned fun v hv =>
        ⟨hv, fun _ => haligned⟩

theorem jobTiles_ends {rb fuel : Nat} (hrb : 1 ≤ rb) (hrows : s.mStart.toNat < s.mEnd.toNat) :
    (jobTiles none f rb fuel s).Ends (s.FirstMisaligned f s.mStart.toNat s.pCur.toNat) s.JobFrame s := by
  induction fuel generalizing s with
  | zero => exact ⟨.refl s, .refl s⟩
  | succ fuel ih =>
    have hblocks := jobBlocks_ends (s := { s with mCur := s.mStart }) (f := f)
      (fuel := s.mEnd.toNat - s.mStart.toNat) hrb hrows
    refine Micro.Ends.andThen (hblocks.after (s := s) (.of_trace rfl)) fun u hu => ?_
    obtain ⟨hframe, haligned⟩ := hu
    have hframe := (setMCur_jobFrame s s.mStart).trans hframe
    have hnext := hframe.trans (setPCur_jobFrame u (u.pCur + u.vl))
    have haligned : s.BasesAligned f := { haligned (by omega) with }
    dsimp only
    split
    · exact ⟨.of_trace rfl, hnext⟩
    · have hrows' : u.mStart.toNat < u.mEnd.toNat := by rw [hframe.frame]; exact hrows
      exact (ih (s := { u with pCur := u.pCur + u.vl }) hrows').of_aligned rfl hnext haligned fun _ => id

theorem jobRun_ends (s : State) (f : Format) {rb : Nat} (hrb : 1 ≤ rb) :
    (jobRun none f rb s).Ends (s.FirstMisaligned f s.mStart.toNat s.pStart.toNat) s.JobFrame s := by
  have hstart : s.JobFrame { s with rbf := rb == 4, pCur := s.pStart } := ⟨rfl⟩
  by_cases hempty : s.mEnd.toNat ≤ s.mStart.toNat ∨ s.pEnd.toNat ≤ s.pStart.toNat
  · rw [jobRun_empty none f rb hempty]
    exact ⟨.of_trace rfl, ⟨rfl⟩⟩
  · have htiles := jobTiles_ends (s := { s with rbf := rb == 4, pCur := s.pStart }) (f := f)
      (fuel := s.pEnd.toNat - s.pStart.toNat) hrb (by change s.mStart.toNat < s.mEnd.toNat; omega)
    rw [jobRun, if_neg hempty]
    exact (htiles.mono (fun _ => id) fun _ ht => hstart.trans ht).after (.of_trace rfl)

end

/-! ### Job commands -/

/-- What the state whose ranges a job works on has of the state before. -/
theorem jobOf_frame {s u : State} {i : Instr} {rb : Nat} (hjob : jobOf s i = some (rb, u)) :
    u = { s with mStart := u.mStart, mEnd := u.mEnd, pStart := u.pStart, pEnd := u.pEnd } := by
  cases i with
  | mm2 => cases hjob; rfl
  | mm4 => cases hjob; rfl
  | mm => cases hjob; rfl
  | _ => cases hjob

/-- What no part that a job writes holds: the fault state, and the record on the interface. -/
theorem Effect.fault_port {W : List Part} {s t : State} (h : Effect W s t) : t.fault = s.fault ∧ t.port = s.port := by
  have hkeeps := h.keeps (fun u => (u.fault, u.port)) fun u v hu => by cases hu <;> simp
  exact ⟨congrArg Prod.fst hkeeps, congrArg Prod.snd hkeeps⟩

/-- The ends with a fault of a command whose operation ends by `P` and `Q`. -/
theorem finish_faults {P : Nat → Prop} {Q : State → Prop} {W : List Part} {s t : State} {m : Micro}
    (hends : m.Ends P Q s) (heffect : Effect W s m.state) (hfault : s.fault = false) (ht : m.finish = t)
    (hfaulted : t.fault = true) :
    t.fcmd = s.port.cmd ∧
      ((∃ n, t.cause = .misaligned ∧ P n ∧ s.Admitted t ∧ t.faddr = BitVec.ofNat 64 n) ∨
        ∃ n, t.cause = .accessFault ∧ s.RefusedAt n t ∧ t.faddr = BitVec.ofNat 64 n) := by
  obtain ⟨hfault', hport⟩ := heffect.fault_port
  rw [hfault] at hfault'
  subst ht
  cases m with
  | done u => exact absurd (hfault'.symm.trans hfaulted) Bool.false_ne_true
  | raised c n u =>
    have hrunning : u.fault = false := hfault'
    simp only [finish_raised, raiseFault_running hrunning]
    refine ⟨congrArg Command.cmd hport, ?_⟩
    rcases hends with ⟨rfl, hP, hadmitted⟩ | ⟨rfl, hrefused⟩
    · exact .inl ⟨n, rfl, hP, hadmitted, rfl⟩
    · exact .inr ⟨n, rfl, hrefused, rfl⟩
  | cut u => exact hends.elim

/-- Settles O42: what the loop nest ends with, and the memory by the replay of the requests. -/
theorem jobFaultCauses : Obligations.JobFaultCauses := by
  intro s u t i rb hfault hjob hexec hfaulted
  obtain ⟨made, htrace, hmem, -⟩ := (exec_accesses hexec).requests
  have hmade {rs : List Request} (h : t.trace = rs ++ s.trace) : made = rs :=
    List.append_cancel_right (htrace.symm.trans h)
  have hu := jobOf_frame hjob
  rw [exec_isJob hfault hjob] at hexec
  cases hformat : s.format with
  | none =>
    rw [needFormat_none hformat, finish_raised_running hfault (.inr (.inr rfl))] at hexec
    cases hexec
    obtain rfl := hmade (rs := []) rfl
    refine ⟨.inl rfl, rfl, ⟨[], htrace, hmem, nofun, by simp⟩, fun _ => ⟨rfl, (formatOf_eq_none s.fmt).1 hformat⟩,
      nofun⟩
  | some f =>
    rw [needFormat_some hformat] at hexec
    have hu_fault : u.fault = false := by rw [hu]; exact hfault
    have hu_port : u.port = s.port := by rw [hu]
    have hu_trace : u.trace = s.trace := by rw [hu]
    obtain ⟨hrb, -⟩ := jobOf_some hjob
    obtain ⟨hfcmd, hcause⟩ := finish_faults (jobRun_ends u f (show 1 ≤ rb by omega)) (jobRun_does none f u rb).effect
      hu_fault (Host.Outcome.next.inj hexec) hfaulted
    rw [hu_port] at hfcmd
    rcases hcause with ⟨n, hcause, hn, ⟨rs, hrs, hok⟩, hfaddr⟩ | ⟨n, hcause, ⟨r, rest, hrs, hr, rfl, hok⟩, hfaddr⟩
    all_goals
      rw [hu_trace] at hrs
      obtain rfl := hmade hrs
    · refine ⟨.inr (.inl hcause), hfcmd, ⟨made, htrace, hmem, by simp [hcause], fun _ => hok⟩, by simp [hcause],
        fun _ => ⟨f, rfl, ?_⟩⟩
      rcases hn with ⟨hb, rfl⟩ | ⟨hb, ha, rfl⟩ | ⟨hb, ha, hc, rfl⟩
      · exact .inl ⟨hb, hfaddr⟩
      · exact .inr (.inl ⟨hb, ha, hfaddr⟩)
      · exact .inr (.inr ⟨hb, ha, hc, hfaddr⟩)
    · exact ⟨.inr (.inr hcause), hfcmd, ⟨r :: rest, htrace, hmem, fun _ => ⟨r, rest, rfl, hr, hfaddr, hok⟩,
        fun h => absurd hcause h⟩, by simp [hcause], by simp [hcause]⟩

end Sys2Proof.Machine
end

section
/-! The number of requests of one block of a job (spec/43_scheduler.md R188): each operation adds its own to those on
the interface, and the negotiated length stays what Init made it. -/

namespace Sys2Proof.Machine

/-! ### Requests counted -/

/-- From `s` to `t` that many read and write requests were made. -/
def State.Counts (reads writes : Nat) (s t : State) : Prop :=
  ∃ made, t.trace = made ++ s.trace ∧ (made.filter fun r => decide (r.kind = .read)).length = reads ∧
    (made.filter fun r => decide (r.kind = .write)).length = writes

section
variable {s t u : State} {r r' w w' : Nat} (f : Format)

theorem State.Counts.of_trace (h : t.trace = s.trace) : State.Counts 0 0 s t := ⟨[], h, rfl, rfl⟩

theorem State.Counts.trans (hst : State.Counts r w s t) (htu : State.Counts r' w' t u) :
    State.Counts (r + r') (w + w') s u := by
  obtain ⟨made, htrace, rfl, rfl⟩ := hst
  obtain ⟨made', htrace', rfl, rfl⟩ := htu
  refine ⟨made' ++ made, by rw [htrace', htrace, List.append_assoc], ?_, ?_⟩ <;>
    rw [List.filter_append, List.length_append, Nat.add_comm]

theorem loadRequests_counts (s : State) (a n : Nat) :
    ((s.loadRequests f a n).filter fun r => decide (r.kind = .read)).length = 2 * n ∧
      ((s.loadRequests f a n).filter fun r => decide (r.kind = .write)).length = 0 := by
  induction n with
  | zero => exact ⟨rfl, rfl⟩
  | succ n ih => simp [State.loadRequests, State.readRequest, ih, Nat.mul_succ]

theorem storeRequests_counts (s : State) (x : LanePair) (a n : Nat) :
    ((s.storeRequests f x a n).filter fun r => decide (r.kind = .read)).length = 0 ∧
      ((s.storeRequests f x a n).filter fun r => decide (r.kind = .write)).length = 2 * n := by
  induction n with
  | zero => exact ⟨rfl, rfl⟩
  | succ n ih => simp [State.storeRequests, writeRequest, ih, Nat.mul_succ]

theorem vloaded_counts (s : State) (d : SlotName) (a : Nat) :
    State.Counts (2 * s.vl.toNat) 0 s (s.vloaded f d a) := by
  obtain ⟨hread, hwrite⟩ := loadRequests_counts f s a s.vl.toNat
  exact ⟨_, rfl, by rwa [List.filter_reverse, List.length_reverse], by rwa [List.filter_reverse, List.length_reverse]⟩

theorem sloaded_counts (s : State) (row : BitVec 2) (a : Nat) : State.Counts 2 0 s (s.sloaded f row a) :=
  ⟨[_, _], rfl, rfl, rfl⟩

theorem wroteBack_counts (s : State) (row : BitVec 2) (a : Nat) :
    State.Counts (2 * s.vl.toNat) (2 * s.vl.toNat) s (s.wroteBack f row a) := by
  obtain ⟨hread, hwrite⟩ := loadRequests_counts f s a s.vl.toNat
  obtain ⟨hread', hwrite'⟩ := storeRequests_counts f s (s.summedPair f row a) a s.vl.toNat
  refine ⟨_ ++ _, (List.append_assoc ..).symm, ?_, ?_⟩ <;>
    simp only [List.filter_append, List.filter_reverse, List.length_append, List.length_reverse, *, Nat.zero_add,
      Nat.add_zero]

/-! ### The requests of a block -/

theorem State.LaneWork.vl {n : Nat} (h : s.LaneWork n t) : t.vl = s.vl := (congrArg State.vl h.frame :)

/-- Rows that make as many requests each. -/
theorem forRows_counts {op : BitVec 2 → State → Micro} (rows : Nat)
    (hop : ∀ k u, s.LaneWork 4 u →
      (op k u).Ends (fun _ => True) (fun t => u.LaneWork 4 t ∧ State.Counts r w u t) u) :
    (forRows op rows s).Ends (fun _ => True) (fun t => s.LaneWork 4 t ∧ State.Counts (r * rows) (w * rows) s t) s :=
  forRows_ends (I := fun k t => s.LaneWork 4 t ∧ State.Counts (r * k) (w * k) s t) ⟨.refl 4 s, .of_trace rfl⟩
    fun _ _ u hu => (hop _ u hu.1).mono (fun _ => id) fun _ ht => ⟨hu.1.trans ht.1, hu.2.trans ht.2⟩

/-- The reads of the prefetch, which the last index of the block does not make (43_scheduler.md R178). -/
def State.prefetchReads (s : State) : Nat := if s.nCur.toNat + 1 < s.dimN.toNat then 2 * s.vl.toNat else 0

theorem jobPrefetch_counts (s : State) :
    (jobPrefetch none f s).Ends (fun _ => True)
      (fun t => s.LaneWork 4 t ∧ State.Counts s.prefetchReads 0 s t) s := by
  unfold jobPrefetch State.prefetchReads
  split
  · exact (vload_ends f s _ _).mono (fun _ _ => trivial) fun t ht =>
      ht.2 ▸ ⟨vloaded_laneWork .., vloaded_counts ..⟩
  · exact ⟨.refl s, .refl 4 s, .of_trace rfl⟩

theorem jobHalf_counts (rows : Nat) (s : State) :
    (jobHalf none f rows s).Ends (fun _ => True)
      (fun t => s.advanceIndex.LaneWork 4 t ∧ State.Counts (2 * rows + s.prefetchReads) 0 s t) s := by
  have hcoefficients := forRows_counts (s := s) (r := 2) (w := 0) (op := jobCoefficient none f) rows fun k u _ =>
    (sload_ends f u k _).mono (fun _ _ => trivial) fun t ht => ht.2 ▸ ⟨sloaded_laneWork .., sloaded_counts ..⟩
  have hprefetch := hcoefficients.andThen (k := jobPrefetch none f)
    (Q' := fun t => s.LaneWork 4 t ∧ State.Counts (2 * rows + s.prefetchReads) 0 s t) fun u ⟨hwork, hcounts⟩ => by
      have hsame : u.prefetchReads = s.prefetchReads := by
        rw [State.prefetchReads, hwork.nCur, hwork.dimN, hwork.vl, State.prefetchReads]
      refine (jobPrefetch_counts f u).mono (fun _ => id) fun t ⟨hwork', hcounts'⟩ => ⟨hwork.trans hwork', ?_⟩
      have := hcounts.trans hcounts'
      rwa [hsame, Nat.zero_mul] at this
  have hengine := hprefetch.andThen (k := forRows (jobCmac f) rows)
    (Q' := fun t => s.LaneWork 4 t ∧ State.Counts (2 * rows + s.prefetchReads) 0 s t) fun u ⟨hwork, hcounts⟩ => by
      have hrows := forRows_counts (s := u) (r := 0) (w := 0) (op := jobCmac f) rows fun k v _ =>
        ⟨.of_trace rfl, cmac_laneWork .., .of_trace rfl⟩
      refine hrows.mono (fun _ => id) fun t ⟨hwork', hcounts'⟩ => ⟨hwork.trans hwork', ?_⟩
      simpa using hcounts.trans hcounts'
  exact hengine.andThen fun u ⟨hwork, hcounts⟩ =>
    ⟨.of_trace rfl, hwork.advanceIndex, by simpa using hcounts.trans (.of_trace (t := u.advanceIndex) rfl)⟩

/-- The steady state with `k` indices before the last one. -/
theorem jobSteady_counts {k : Nat} (rows : Nat) (hk : s.dimN.toNat = s.nCur.toNat + k + 1) :
    (jobSteady none f rows (k + 1) s).Ends (fun _ => True)
      (fun t => t.vl = s.vl ∧ State.Counts (2 * rows * (k + 1) + 2 * s.vl.toNat * k) 0 s t) s := by
  induction k generalizing s with
  | zero =>
    refine (jobHalf_counts f rows s).andThen fun u ⟨hwork, hcounts⟩ => ?_
    have hnone : s.prefetchReads = 0 := if_neg (by omega)
    have hend : u.nCur = u.dimN := by
      rw [hwork.nCur, hwork.dimN]
      exact BitVec.eq_of_toNat_eq (by simp [State.advanceIndex]; omega)
    rw [if_pos hend]
    exact ⟨.refl u, hwork.vl, by simpa [hnone] using hcounts⟩
  | succ k ih =>
    refine (jobHalf_counts f rows s).andThen fun u ⟨hwork, hcounts⟩ => ?_
    have hnext : s.prefetchReads = 2 * s.vl.toNat := if_pos (by omega)
    have hk' : u.dimN.toNat = u.nCur.toNat + k + 1 := by
      rw [hwork.nCur, hwork.dimN]
      simp [State.advanceIndex]
      omega
    have hvl : u.vl = s.vl := hwork.vl
    rw [if_neg fun hend => by rw [hend] at hk'; omega]
    refine (ih hk').mono (fun _ => id) fun t ⟨hvl', hcounts'⟩ => ⟨hvl'.trans hvl, ?_⟩
    have htotal := hcounts.trans hcounts'
    rw [hnext, hvl] at htotal
    convert htotal using 1
    ring

theorem jobBlock_counts (rows : Nat) (hN : s.dimN ≠ 0) :
    (jobBlock none f rows s).Ends (fun _ => True)
      (fun t => State.Counts
        (2 * t.vl.toNat * s.dimN.toNat + 2 * rows * s.dimN.toNat + 2 * t.vl.toNat * rows) (2 * t.vl.toNat * rows) s t)
      s := by
  obtain ⟨k, hk⟩ : ∃ k, s.dimN.toNat = k + 1 :=
    Nat.exists_eq_succ_of_ne_zero fun h0 => hN (BitVec.eq_of_toNat_eq h0)
  have hinit : (jobInit none f rows s).Ends (fun _ => True)
      (fun t => (s.blockStart f rows).LaneWork 4 t ∧ State.Counts (2 * t.vl.toNat) 0 s t) s := by
    rw [jobInit_eq_vload]
    refine ((vload_ends f (s.blockStart f rows) _ _).mono (fun _ _ => trivial) fun t ht => ?_).after (.of_trace rfl)
    obtain ⟨-, rfl⟩ := ht
    have hwork := vloaded_laneWork (s.blockStart f rows) f (.bbuf 0) ((s.blockStart f rows).addrB f 0 s.pCur.toNat)
    refine ⟨hwork, ?_⟩
    rw [hwork.vl]
    exact vloaded_counts f (s.blockStart f rows) _ _
  have hsteady := hinit.andThen (k := fun u => jobSteady none f rows u.halfIterations u)
    (Q' := fun t => State.Counts (2 * t.vl.toNat * (k + 1) + 2 * rows * (k + 1)) 0 s t) fun u ⟨hwork, hcounts⟩ => by
      have hdimN : u.dimN = s.dimN := hwork.dimN
      have hnCur : u.nCur = 0 := hwork.nCur
      rw [halfIterations_eq (by rw [hdimN, hk]; omega), hdimN, hk]
      refine (jobSteady_counts f rows (by simp [hdimN, hnCur, hk])).mono (fun _ => id) fun t ⟨hvl, hcounts'⟩ => ?_
      rw [hvl]
      convert hcounts.trans hcounts' using 1
      ring
  refine hsteady.andThen fun u hcounts => ?_
  have hstores := forRows_counts (s := u) (op := jobWriteback none f) rows fun r v hv =>
    (writeback_ends f v r _).mono (fun _ _ => trivial) fun t ht =>
      ⟨ht.2 ▸ wroteBack_laneWork .., hv.vl ▸ ht.2 ▸ wroteBack_counts ..⟩
  refine hstores.mono (fun _ => id) fun t ⟨hwork, hcounts'⟩ => ?_
  rw [hwork.vl, hk]
  simpa using hcounts.trans hcounts'

end

/-- Settles O43, by the sum over the operations of the block. -/
theorem blockRequestCounts : Obligations.BlockRequestCounts := by
  intro f rows s t hN hdone
  have hends := jobBlock_counts f rows hN
  rw [hdone] at hends
  exact hends.2

end Sys2Proof.Machine
end

section
/-! The elements of the matrix views and their bytes (spec/20_memory.md R61, R67, R68): an element is determined by its
bytes, a vector access takes the elements of a row in turn, and the elements of a job's part of C do not overlap. -/

namespace Sys2Proof.Machine

/-! ### Bytes of an element -/

section
variable (s : State) (f : Format) (a i : Nat) {k : Nat}

theorem leByte_reValue (hk : k < f.eb) :
    leByte (s.reValue f a i) k = s.mem.read ((a + (2 * i * f.eb + k)) % s.space) := by
  rw [← reAddr_add]
  exact leByte_leValue _ _ k hk

theorem leByte_imValue (hk : k < f.eb) :
    leByte (s.imValue f a i) k = s.mem.read ((a + ((2 * i + 1) * f.eb + k)) % s.space) := by
  rw [← imAddr_add]
  exact leByte_leValue _ _ k hk

end

section
variable {s t : State} {f : Format} {a x : Nat}

theorem inElements_one_iff : s.inElements f a 1 x ↔ ∃ k < f.cb, x = (a + k) % s.space := by
  rw [State.inElements, Nat.mul_one, Format.cb]

/-- An element is the same where its bytes are. -/
theorem element_congr (hparams : t.params = s.params)
    (h : ∀ x, s.inElements f a 1 x → t.mem.read x = s.mem.read x) : t.element f a = s.element f a := by
  have hspace : t.space = s.space := by simp only [State.space, hparams]
  refine Prod.ext (eq_of_leByte_eq fun k hk => ?_) (eq_of_leByte_eq fun k hk => ?_) <;>
    replace hk : k < f.eb := hk
  · rw [State.element, State.element, leByte_reValue t f a 0 hk, leByte_reValue s f a 0 hk, hspace]
    exact h _ (inElements_one_iff.2 ⟨_, by rw [Format.cb]; omega, rfl⟩)
  · rw [State.element, State.element, leByte_imValue t f a 0 hk, leByte_imValue s f a 0 hk, hspace]
    exact h _ (inElements_one_iff.2 ⟨_, by rw [Format.cb]; omega, rfl⟩)

/-- The bytes of an element are the same where the element is. -/
theorem read_eq_of_element_eq (hparams : t.params = s.params) (h : t.element f a = s.element f a)
    (hx : s.inElements f a 1 x) : t.mem.read x = s.mem.read x := by
  have hspace : t.space = s.space := by simp only [State.space, hparams]
  obtain ⟨hre, him⟩ := Prod.ext_iff.1 h
  obtain ⟨k, hk, rfl⟩ := inElements_one_iff.1 hx
  rw [Format.cb] at hk
  rcases Nat.lt_or_ge k f.eb with hlt | hge
  · have hbyte := congrArg (leByte · k) hre
    simpa only [State.element, leByte_reValue t f a 0 hlt, leByte_reValue s f a 0 hlt, hspace, Nat.mul_zero,
      Nat.zero_mul, Nat.zero_add] using hbyte
  · have hlt : k - f.eb < f.eb := by omega
    have hbyte := congrArg (leByte · (k - f.eb)) him
    simpa only [State.element, leByte_imValue t f a 0 hlt, leByte_imValue s f a 0 hlt, hspace, Nat.mul_zero,
      Nat.zero_add, Nat.one_mul, Nat.add_sub_cancel' hge] using hbyte

/-- What a store puts at its elements is read there. -/
theorem storesElements_values {n l : Nat} {v : Nat → BitVec f.storage.bits × BitVec f.storage.bits}
    (hparams : t.params = s.params) (h : s.storesElements t.mem f a n v) (hl : l < n) :
    (t.reValue f a l, t.imValue f a l) = v l := by
  have hspace : t.space = s.space := by simp only [State.space, hparams]
  refine Prod.ext (eq_of_leByte_eq fun k hk => ?_) (eq_of_leByte_eq fun k hk => ?_)
  · rw [leByte_reValue t f a l hk, hspace, ← reAddr_add]
    exact (h.1 l hl k hk).1
  · rw [leByte_imValue t f a l hk, hspace, ← imAddr_add]
    exact (h.1 l hl k hk).2

/-! ### Elements of a view -/

/-- Part `l` of a vector access to a view is the element `l` further on. -/
theorem values_view (s : State) (f : Format) (base i l : Nat) :
    (s.reValue f ((base + i * f.cb) % s.space) l, s.imValue f ((base + i * f.cb) % s.space) l) =
      s.element f ((base + (i + l) * f.cb) % s.space) := by
  have hre : s.reAddr f ((base + i * f.cb) % s.space) l = s.reAddr f ((base + (i + l) * f.cb) % s.space) 0 := by
    simp only [State.reAddr, Nat.mod_add_mod, Format.cb]
    congr 1
    ring
  have him : s.imAddr f ((base + i * f.cb) % s.space) l = s.imAddr f ((base + (i + l) * f.cb) % s.space) 0 := by
    simp only [State.imAddr, Nat.mod_add_mod, Format.cb]
    congr 1
    ring
  rw [State.reValue, State.imValue, hre, him]
  rfl

theorem values_addrB (s : State) (f : Format) (k j l : Nat) :
    (s.reValue f (s.addrB f k j) l, s.imValue f (s.addrB f k j) l) = s.element f (s.addrB f k (j + l)) := by
  rw [State.addrB, State.addrB, ← Nat.add_assoc (k * s.dimP.toNat)]
  exact values_view s f _ _ l

theorem values_addrC (s : State) (f : Format) (i j l : Nat) :
    (s.reValue f (s.addrC f i j) l, s.imValue f (s.addrC f i j) l) = s.element f (s.addrC f i (j + l)) := by
  rw [State.addrC, State.addrC, ← Nat.add_assoc (i * s.dimP.toNat)]
  exact values_view s f _ _ l

theorem inElements_view {base i n : Nat} (h : s.inElements f ((base + i * f.cb) % s.space) n x) :
    ∃ l < n, s.inElements f ((base + (i + l) * f.cb) % s.space) 1 x := by
  obtain ⟨k, hk, rfl⟩ := h
  have hcb : 0 < f.cb := Nat.mul_pos (by decide) (eb_pos f)
  have hk' : k < f.cb * n := by rw [Format.cb]; convert hk using 1; ring
  refine ⟨k / f.cb, Nat.div_lt_of_lt_mul hk', inElements_one_iff.2 ⟨k % f.cb, Nat.mod_lt _ hcb, ?_⟩⟩
  have hsplit : base + (i + k / f.cb) * f.cb + k % f.cb = base + i * f.cb + k := by
    conv_rhs => rw [← Nat.div_add_mod' k f.cb]
    ring
  rw [Nat.mod_add_mod, Nat.mod_add_mod, hsplit]

theorem inElements_addrC {i j n : Nat} (h : s.inElements f (s.addrC f i j) n x) :
    ∃ l < n, s.inElements f (s.addrC f i (j + l)) 1 x := by
  obtain ⟨l, hl, hx⟩ := inElements_view h
  refine ⟨l, hl, ?_⟩
  rwa [Nat.add_assoc] at hx

/-! ### The elements of C that a job writes -/

/-- Quotient and remainder are determined by the number. -/
theorem eq_and_eq_of_mul_add_eq {m q q' k k' : Nat} (hk : k < m) (hk' : k' < m) (h : q * m + k = q' * m + k') :
    q = q' ∧ k = k' := by
  have hq : q = q' := by
    have := congrArg (· / m) h
    simpa [Nat.mul_add_div (Nat.zero_lt_of_lt hk), Nat.mul_comm _ m, Nat.div_eq_of_lt hk,
      Nat.div_eq_of_lt hk'] using this
  subst hq
  exact ⟨rfl, Nat.add_left_cancel h⟩

/-- The bytes of the elements of C do not wrap, so no two of them share a byte (43_scheduler.md R172 (c), (d)). -/
theorem addrC_disjoint (hw : s.WellFormedJob f) {i j i' j' : Nat} (h : s.inRanges i j) (h' : s.inRanges i' j')
    (hx : s.inElements f (s.addrC f i j) 1 x) (hx' : s.inElements f (s.addrC f i' j') 1 x) : i = i' ∧ j = j' := by
  have hbyte {i j} (h : s.inRanges i j) (hx : s.inElements f (s.addrC f i j) 1 x) :
      ∃ k < f.cb, x = s.cbase.toNat + ((i * s.dimP.toNat + j) * f.cb + k) := by
    obtain ⟨k, hk, rfl⟩ := inElements_one_iff.1 hx
    obtain ⟨-, hi, -, hj⟩ := h
    have hfits := hw.cFits i hi j hj
    refine ⟨k, hk, ?_⟩
    rw [State.addrC, Nat.mod_add_mod, Nat.mod_eq_of_lt (by omega), Nat.add_assoc]
  obtain ⟨k, hk, hk_eq⟩ := hbyte h hx
  obtain ⟨k', hk', hk_eq'⟩ := hbyte h' hx'
  have hleading := hw.leading
  obtain ⟨-, -, -, hj⟩ := h
  obtain ⟨-, -, -, hj'⟩ := h'
  obtain ⟨hindex, -⟩ := eq_and_eq_of_mul_add_eq hk hk' (Nat.add_left_cancel (hk_eq.symm.trans hk_eq'))
  exact eq_and_eq_of_mul_add_eq (by omega) (by omega) hindex

end

end Sys2Proof.Machine
end

section
/-! What one block of a job computes (spec/43_scheduler.md R176 to R180, R185): an invariant on the buffers, the
coefficients and the accumulators, carried by each line of a half-iteration, then C by its write-back. -/

namespace Sys2Proof.Machine

/-! ### Lanes by value -/

/-- Lanes `0 .. n−1` of the pair hold the given complex values at width `w`. -/
def LanePair.Holds (x : LanePair) (w : Width) (n : Nat) (v : Nat → BitVec w.bits × BitVec w.bits) : Prop :=
  ∀ l < n, (Slot.lane x.re w l, Slot.lane x.im w l) = v l

theorem LanePair.updated.holds {x y : LanePair} {w : Width} {n : Nat} {v : Nat → BitVec w.bits × BitVec w.bits}
    (h : x.updated y w n v) : y.Holds w n v := by
  obtain ⟨-, -, hlanes, -⟩ := h
  exact fun l hl => Prod.ext (hlanes l hl).1 (hlanes l hl).2

/-- A complex element as its two containers hold it, zero-extended (41_loadstore.md R137). -/
def extended (f : Format) (x : BitVec f.storage.bits × BitVec f.storage.bits) : Coefficient :=
  { re := x.1.setWidth 64, im := x.2.setWidth 64 }

theorem width_bits_le (w : Width) : w.bits ≤ 64 := by cases w <;> decide

section
variable {s : State} {f : Format} {p : Config.Params}

theorem vloaded_slot_same (d : SlotName) (a : Nat) :
    (s.vloaded f d a).slot d = s.loadedPair f a s.vl.toNat (s.slot d) := by
  cases d with
  | wbs => rfl
  | bbuf b => exact slot_setSlot_same s (.bbuf b) _

theorem vloaded_slot_ne {d e : SlotName} (a : Nat) (h : d ≠ e) : (s.vloaded f d a).slot e = s.slot e :=
  (by cases e <;> rfl : (s.vloaded f d a).slot e = (s.setSlot d _).slot e).trans (slot_setSlot_ne s _ h)

theorem loadedPair_sized {x : LanePair} (hx : x.sized p) (a n : Nat) : (s.loadedPair f a n x).sized p :=
  (updateElements_sameSize ..).sized hx

theorem vloaded_sized (h : ∀ n, (s.slot n).sized p) (d : SlotName) (a : Nat) (n : SlotName) :
    ((s.vloaded f d a).slot n).sized p := by
  by_cases hd : d = n
  · subst hd
    rw [vloaded_slot_same]
    exact loadedPair_sized (h d) _ _
  · rw [vloaded_slot_ne _ hd]
    exact h n

theorem sloaded_scalRow_same (r : BitVec 2) (a : Nat) : (s.sloaded f r a).scalRow r = extended f (s.element f a) :=
  scalRow_setScalRow_same ..

theorem sloaded_scalRow_ne {r q : BitVec 2} (a : Nat) (h : r ≠ q) : (s.sloaded f r a).scalRow q = s.scalRow q :=
  scalRow_setScalRow_ne s _ h

/-- The lanes of CMAC in a job, with the coefficient and the operand given by value. -/
theorem cmac_holds {r : BitVec 2} {b : BitVec 1} {a : BitVec f.storage.bits × BitVec f.storage.bits}
    {v : Nat → BitVec f.acc.bits × BitVec f.acc.bits} {y : Nat → BitVec f.storage.bits × BitVec f.storage.bits}
    (hsized : (s.accRow r).sized p) (hfits : s.vl.toNat * f.acc.bytes ≤ p.vlen)
    (hscal : s.scalRow r = extended f a) (hacc : (s.accRow r).Holds f.acc s.vl.toNat v)
    (hbuf : (s.slot (.bbuf b)).Holds f.storage s.vl.toNat y) :
    ((s.cmac f r b).accRow r).Holds f.acc s.vl.toNat fun l => cmac1 f (v l) a (y l) := by
  have hlanes := (cmacLanes_updated hsized hfits a (s.slot (.bbuf b))).holds
  rw [cmac_accRow_same, hscal]
  simp only [extended, BitVec.setWidth_setWidth_of_le _ (width_bits_le f.storage), BitVec.setWidth_eq]
  exact fun l hl => (hlanes l hl).trans (by simp only [hacc l hl, hbuf l hl])

end

/-! ### The values of a block -/

/-- A row block and column tile of a job: the state whose ranges the job works on, the format, the first row and column,
the numbers of rows and of columns, and the memory that the block begins with. -/
structure Block where
  job  : State
  f    : Format
  row  : Nat
  col  : Nat
  rows : Nat
  len  : Nat
  mem  : Memory

/-- Coefficient `n` of row `r` of the block. -/
def Block.coefficient (B : Block) (r n : Nat) : BitVec B.f.storage.bits × BitVec B.f.storage.bits :=
  B.job.element B.f (B.job.addrA B.f (B.row + r) n)

/-- The element of B at index `n` and lane `l` of the block. -/
def Block.operand (B : Block) (n l : Nat) : BitVec B.f.storage.bits × BitVec B.f.storage.bits :=
  B.job.element B.f (B.job.addrB B.f n (B.col + l))

/-- The sum of the first `n` products for row `r` and lane `l` of the block. -/
def Block.sum (B : Block) (r n l : Nat) : BitVec B.f.acc.bits × BitVec B.f.acc.bits :=
  B.job.partialSum B.f (B.row + r) (B.col + l) n

theorem Block.sum_succ (B : Block) (r n l : Nat) :
    B.sum r (n + 1) l = cmac1 B.f (B.sum r n l) (B.coefficient r n) (B.operand n l) := rfl

/-- The block lies in the ranges of a well-formed job that keeps the buffer contract, and its lanes fit the slots. -/
structure Block.Fits (B : Block) : Prop where
  wellFormed : B.job.WellFormedJob B.f
  disjoint : B.job.JobDisjoint B.f
  rowStart : B.job.mStart.toNat ≤ B.row
  rowEnd : B.row + B.rows ≤ B.job.mEnd.toNat
  colStart : B.job.pStart.toNat ≤ B.col
  colEnd : B.col + B.len ≤ B.job.pEnd.toNat
  rows_le : B.rows ≤ 4
  storageLanes : B.len * B.f.storage.bytes ≤ B.job.params.vlen
  accLanes : B.len * B.f.acc.bytes ≤ B.job.params.vlen

/-- The job stands in the block, and has written no byte but of its part of C. -/
structure Block.Reached (B : Block) (s : State) : Prop where
  frame : B.job.JobFrame s
  mCur : s.mCur.toNat = B.row
  pCur : s.pCur.toNat = B.col
  vl : s.vl.toNat = B.len
  accSized : ∀ r, (s.accRow r).sized B.job.params
  slotSized : ∀ n, (s.slot n).sized B.job.params
  others : ∀ x, ¬ B.job.writesC B.f x → s.mem.read x = B.job.mem.read x

/-- Row `r` of the accumulators holds the sums of its first `m r` products. -/
def Block.Sums (B : Block) (m : Nat → Nat) (s : State) : Prop :=
  ∀ r : BitVec 2, r.toNat < B.rows → (s.accRow r).Holds B.f.acc B.len (B.sum r.toNat (m r.toNat))

/-- The job stands at index `n` of the block, with nothing written yet and the operands of that index in the current
buffer. -/
structure Block.AtIndex (B : Block) (n : Nat) (m : Nat → Nat) (s : State) : Prop extends B.Reached s where
  mem : s.mem = B.mem
  nCur : s.nCur.toNat = n
  sums : B.Sums m s
  buffer : n < B.job.dimN.toNat → (s.slot (.bbuf s.cur)).Holds B.f.storage B.len (B.operand n)

/-- The coefficients of index `n` of the rows below `k` are loaded. -/
def Block.Coefficients (B : Block) (n k : Nat) (s : State) : Prop :=
  ∀ r : BitVec 2, r.toNat < k → s.scalRow r = extended B.f (B.coefficient r.toNat n)

/-- The operands of the next index, if there is one, are in the other buffer. -/
def Block.NextBuffer (B : Block) (n : Nat) (s : State) : Prop :=
  n + 1 < B.job.dimN.toNat → (s.slot (.bbuf (1 - s.cur))).Holds B.f.storage B.len (B.operand (n + 1))

section
variable {B : Block} {s : State} {n : Nat} {m : Nat → Nat}

/-- The coefficients that the block reads are those at the start of the job (20_memory.md R80). -/
theorem Block.Reached.coefficient (hs : B.Reached s) (hB : B.Fits) {r : Nat} (hr : r < B.rows)
    (hn : n < B.job.dimN.toNat) : s.element B.f (B.job.addrA B.f (B.row + r) n) = B.coefficient r n := by
  have hstart := hB.rowStart
  have hend := hB.rowEnd
  exact element_congr hs.frame.params fun x hx =>
    hs.others x (hB.disjoint.a _ _ x (by omega) (by omega) hn hx)

/-- The operands that the block reads are those at the start of the job (20_memory.md R80). -/
theorem Block.Reached.operand (hs : B.Reached s) (hB : B.Fits) {l : Nat} (hl : l < B.len)
    (hn : n < B.job.dimN.toNat) : s.element B.f (B.job.addrB B.f n (B.col + l)) = B.operand n l := by
  have hstart := hB.colStart
  have hend := hB.colEnd
  exact element_congr hs.frame.params fun x hx =>
    hs.others x (hB.disjoint.b _ _ x hn (by omega) (by omega) hx)

/-- A load of a row of B into a buffer (43_scheduler.md R177, R178). -/
theorem Block.Reached.loaded (hs : B.Reached s) (hB : B.Fits) (hn : n < B.job.dimN.toNat) (d : SlotName) :
    B.Reached (s.vloaded B.f d (B.job.addrB B.f n B.col)) ∧
      ((s.vloaded B.f d (B.job.addrB B.f n B.col)).slot d).Holds B.f.storage B.len (B.operand n) := by
  have hwork := vloaded_laneWork s B.f d (B.job.addrB B.f n B.col)
  constructor
  · exact { hs with
      frame := hs.frame.trans hwork.jobFrame
      mCur := hwork.mCur ▸ hs.mCur
      pCur := hwork.pCur ▸ hs.pCur
      vl := hwork.vl ▸ hs.vl
      accSized := by cases d <;> exact hs.accSized
      slotSized := vloaded_sized hs.slotSized d _
      others := by cases d <;> exact hs.others }
  · have hsized : (s.slot d).sized s.params := hs.frame.params ▸ hs.slotSized d
    have hlanes := (loadedPair_updated s (f := B.f) (B.job.addrB B.f n B.col) hsized
      (hs.frame.params ▸ hB.storageLanes)).holds
    rw [vloaded_slot_same, hs.vl]
    refine fun l hl => (hlanes l hl).trans ?_
    have hvalues := values_addrB s B.f n B.col l
    rw [hs.frame.addrB, hs.operand hB hl hn] at hvalues
    exact hvalues

/-! ### A half-iteration -/

theorem toNat_ofNat_row {k : Nat} (hB : B.Fits) (hk : k < B.rows) : (BitVec.ofNat 2 k).toNat = k := by
  have := hB.rows_le
  rw [BitVec.toNat_ofNat]
  omega

/-- Line H1 (43_scheduler.md R178). -/
theorem jobCoefficients_loads (hB : B.Fits) (hs : B.AtIndex n m s) (hn : n < B.job.dimN.toNat) :
    (forRows (jobCoefficient none B.f) B.rows s).Ends (fun _ => True)
      (fun t => B.AtIndex n m t ∧ B.Coefficients n B.rows t) s := by
  refine forRows_ends (I := fun k t => B.AtIndex n m t ∧ B.Coefficients n k t) ⟨hs, by simp [Block.Coefficients]⟩
    fun k hk u ⟨hu, hcoeff⟩ => ?_
  rw [jobCoefficient, hu.frame.addrA, hu.mCur, hu.nCur, toNat_ofNat_row hB hk]
  refine (sload_ends B.f u _ _).mono (fun _ _ => trivial) fun t ⟨_, ht⟩ => ?_
  subst ht
  have hframe := hu.frame.trans (sloaded_laneWork u B.f (.ofNat 2 k) (B.job.addrA B.f (B.row + k) n)).jobFrame
  refine ⟨{ hu with frame := hframe }, fun q hq => ?_⟩
  by_cases hqk : BitVec.ofNat 2 k = q
  · subst hqk
    rw [sloaded_scalRow_same, toNat_ofNat_row hB hk, hu.coefficient hB hk hn]
  · have hne : q.toNat ≠ k := fun h => hqk (BitVec.eq_of_toNat_eq (by rw [toNat_ofNat_row hB hk, h]))
    rw [sloaded_scalRow_ne _ hqk, hcoeff q (by omega)]

/-- The two buffers are distinct. -/
theorem bbuf_toggle_ne (b : BitVec 1) : SlotName.bbuf (1 - b) ≠ .bbuf b := by
  revert b; decide

/-- Line H2 (43_scheduler.md R178, R184). -/
theorem jobPrefetch_loads (hB : B.Fits) (hs : B.AtIndex n m s) (hcoeff : B.Coefficients n B.rows s) :
    (jobPrefetch none B.f s).Ends (fun _ => True)
      (fun t => B.AtIndex n m t ∧ B.Coefficients n B.rows t ∧ B.NextBuffer n t) s := by
  rw [jobPrefetch, hs.nCur, hs.frame.dimN, hs.frame.addrB, hs.pCur]
  split
  · rename_i hnext
    refine (vload_ends B.f s _ _).mono (fun _ _ => trivial) fun t ⟨_, ht⟩ => ?_
    obtain ⟨hreached, hbuffer⟩ := hs.loaded hB hnext (.bbuf (1 - s.cur))
    subst ht
    refine ⟨{ hreached with mem := hs.mem, nCur := hs.nCur, sums := hs.sums, buffer := fun hn => ?_ }, hcoeff,
      fun _ => hbuffer⟩
    exact (vloaded_slot_ne _ (bbuf_toggle_ne s.cur)).symm ▸ hs.buffer hn
  · rename_i hlast
    exact ⟨.refl s, hs, hcoeff, fun hnext => absurd hnext hlast⟩

/-- Line H3 (43_scheduler.md R178): each row takes the product of this index. -/
theorem jobCmacs_accumulates (hB : B.Fits) (hs : B.AtIndex n (fun _ => n) s) (hcoeff : B.Coefficients n B.rows s)
    (hnext : B.NextBuffer n s) (hn : n < B.job.dimN.toNat) :
    (forRows (jobCmac B.f) B.rows s).Ends (fun _ => True)
      (fun t => B.AtIndex n (fun _ => n + 1) t ∧ B.NextBuffer n t) s := by
  have hloop := forRows_ends (s := s) (op := jobCmac B.f) (rows := B.rows) (P := fun _ => True)
    (I := fun k t => B.AtIndex n (fun r => if r < k then n + 1 else n) t ∧ B.Coefficients n B.rows t ∧
      B.NextBuffer n t) ⟨by simpa using hs, hcoeff, hnext⟩ fun k hk u ⟨hu, hcoeff, hnext⟩ => ?_
  · refine hloop.mono (fun _ => id) fun t ⟨ht, _, hnext⟩ => ⟨{ ht with sums := fun r hr => ?_ }, hnext⟩
    simpa only [if_pos hr] using ht.sums r hr
  · have hrow := toNat_ofNat_row hB hk
    have hsum := cmac_holds (f := B.f) (r := .ofNat 2 k) (hu.accSized _) (hu.vl ▸ hB.accLanes)
      (hcoeff _ (hrow.symm ▸ hk)) (hu.vl.symm ▸ hu.sums _ (hrow.symm ▸ hk)) (hu.vl.symm ▸ hu.buffer hn)
    have hframe := hu.frame.trans (cmac_laneWork u B.f (.ofNat 2 k) u.cur).jobFrame
    refine ⟨.of_trace rfl, { hu with frame := hframe, accSized := fun q => ?_, sums := fun q hq => ?_ }, hcoeff, hnext⟩
    · by_cases hqk : BitVec.ofNat 2 k = q
      · subst hqk
        rw [cmac_accRow_same]
        exact (updateElements_sameSize ..).sized (hu.accSized _)
      · rw [cmac_accRow_ne u B.f _ hqk]
        exact hu.accSized q
    · by_cases hqk : BitVec.ofNat 2 k = q
      · subst hqk
        rw [hu.vl, hrow, if_neg (Nat.lt_irrefl k)] at hsum
        rw [hrow]
        simp only [if_pos k.lt_add_one, funext (B.sum_succ k n)]
        exact hsum
      · have hne : q.toNat ≠ k := fun h => hqk (BitVec.eq_of_toNat_eq (by rw [hrow, h]))
        have hiff : q.toNat < k + 1 ↔ q.toNat < k := by omega
        rw [cmac_accRow_ne u B.f _ hqk]
        simpa only [hiff] using hu.sums q hq

/-- A half-iteration adds the products of its index to the sums. -/
theorem jobHalf_accumulates (hB : B.Fits) (hs : B.AtIndex n (fun _ => n) s) (hn : n < B.job.dimN.toNat) :
    (jobHalf none B.f B.rows s).Ends (fun _ => True) (B.AtIndex (n + 1) fun _ => n + 1) s := by
  have hprefetch := (jobCoefficients_loads hB hs hn).andThen (k := jobPrefetch none B.f)
    fun u ⟨hu, hcoeff⟩ => jobPrefetch_loads hB hu hcoeff
  have hengine := hprefetch.andThen (k := forRows (jobCmac B.f) B.rows)
    fun u ⟨hu, hcoeff, hnext⟩ => jobCmacs_accumulates hB hu hcoeff hnext hn
  refine hengine.andThen fun u ⟨hu, hnext⟩ => ⟨.of_trace rfl, ?_⟩
  have hnCur : (u.nCur + 1).toNat = n + 1 := by
    have := B.job.dimN.isLt
    have := hu.nCur
    bv_omega
  exact { hu with
    frame := hu.frame.trans (advanceIndex_sameBlock u).toJobFrame
    nCur := hnCur
    buffer := hnext }

/-- The steady state sums all products, here with `k` indices before the last one. -/
theorem jobSteady_accumulates (hB : B.Fits) {k : Nat} (hs : B.AtIndex n (fun _ => n) s)
    (hk : B.job.dimN.toNat = n + k + 1) :
    (jobSteady none B.f B.rows (k + 1) s).Ends (fun _ => True)
      (B.AtIndex B.job.dimN.toNat fun _ => B.job.dimN.toNat) s := by
  induction k generalizing n s with
  | zero =>
    refine (jobHalf_accumulates hB hs (by omega)).andThen fun u hu => ?_
    rw [if_pos (BitVec.eq_of_toNat_eq (by rw [hu.nCur, hu.frame.dimN, hk]))]
    rw [hk]
    exact ⟨.refl u, hu⟩
  | succ k ih =>
    refine (jobHalf_accumulates hB hs (by omega)).andThen fun u hu => ?_
    have hmore : u.nCur ≠ u.dimN := fun hend => by
      have := hu.nCur
      rw [hend, hu.frame.dimN] at this
      omega
    rw [if_neg hmore]
    exact ih hu (by omega)

/-! ### The write-back -/

/-- The element of C that R185 states for row `r` and column `c`. -/
def State.result (j : State) (f : Format) (r c : Nat) : BitVec f.storage.bits × BitVec f.storage.bits :=
  wbadd f (j.element f (j.addrC f r c)) (j.partialSum f r c j.dimN.toNat)

/-- Of the job's part of C the elements in `D` hold their results in `s`, and the others what they held in `j`. -/
structure State.Progress (j s : State) (f : Format) (D : Nat → Nat → Prop) : Prop where
  finished : ∀ r c, j.inRanges r c → D r c → s.element f (j.addrC f r c) = j.result f r c
  pending : ∀ r c, j.inRanges r c → ¬ D r c → s.element f (j.addrC f r c) = j.element f (j.addrC f r c)

theorem State.Progress.congr {j s : State} {f : Format} {D D' : Nat → Nat → Prop} (h : j.Progress s f D)
    (hD : ∀ r c, j.inRanges r c → (D r c ↔ D' r c)) : j.Progress s f D' :=
  ⟨fun r c hrc hd => h.finished r c hrc ((hD r c hrc).2 hd), fun r c hrc hd =>
    h.pending r c hrc (mt (hD r c hrc).1 hd)⟩

/-- Elements that fit a slot do not wrap onto each other. -/
theorem elements_le_space_of_lanes (s : State) {f : Format} {n : Nat} (h : n * f.storage.bytes ≤ s.params.vlen) :
    2 * n * f.eb ≤ s.space := by
  have hvlen : s.params.vlen ≤ 64 * 2 ^ 10 :=
    Nat.mul_le_mul_left _ (Nat.pow_le_pow_right (by decide) (by omega))
  have hspace := two_pow_le_space s
  have heb : n * f.eb ≤ s.params.vlen := h
  rw [Nat.mul_assoc]
  omega

theorem Block.Fits.inRanges (hB : B.Fits) {k l : Nat} (hk : k < B.rows) (hl : l < B.len) :
    B.job.inRanges (B.row + k) (B.col + l) := by
  obtain ⟨-, -, hrow, hrow', hcol, hcol', -⟩ := hB
  exact ⟨by omega, by omega, by omega, by omega⟩

/-- The memory after the write-back of row `k` of the block: its elements hold the lanes of the scratch, every other
byte is kept. -/
theorem Block.Reached.stores (hs : B.Reached s) (hB : B.Fits) (r : BitVec 2) (a : Nat) :
    s.storesElements (s.wroteBack B.f r a).mem B.f a B.len fun l =>
      (Slot.lane (s.summedPair B.f r a).re B.f.storage l, Slot.lane (s.summedPair B.f r a).im B.f.storage l) := by
  rw [← hs.vl]
  exact storedMem_storesElements s a (elements_le_space_of_lanes s (hs.frame.params ▸ hs.vl ▸ hB.storageLanes))

theorem Block.Reached.summed (hs : B.Reached s) (hB : B.Fits) (hsums : B.Sums m s) {r : BitVec 2}
    (hr : r.toNat < B.rows) :
    (s.summedPair B.f r (B.job.addrC B.f (B.row + r.toNat) B.col)).Holds B.f.storage B.len fun l =>
      wbadd B.f (s.element B.f (B.job.addrC B.f (B.row + r.toNat) (B.col + l))) (B.sum r.toNat (m r.toNat) l) := by
  have hsized : s.wbs.sized s.params := hs.frame.params ▸ hs.slotSized .wbs
  have hlanes := (summedPair_updated s (f := B.f) r (B.job.addrC B.f (B.row + r.toNat) B.col) hsized
    (hs.frame.params ▸ hs.vl ▸ hB.storageLanes)).holds
  rw [hs.vl] at hlanes
  refine fun l hl => (hlanes l hl).trans ?_
  have hvalues := values_addrC s B.f (B.row + r.toNat) B.col l
  rw [hs.frame.addrC] at hvalues
  simp only [hvalues, hsums r hr l hl]

theorem wroteBack_reached (hB : B.Fits) (hs : B.Reached s) {r : BitVec 2} (hr : r.toNat < B.rows) :
    B.Reached (s.wroteBack B.f r (B.job.addrC B.f (B.row + r.toNat) B.col)) := by
  have hscratch : ((s.summedPair B.f r (B.job.addrC B.f (B.row + r.toNat) B.col)).SameSize s.wbs) :=
    ⟨(updateElements_length_re ..).trans (updateElements_length_re ..),
      (updateElements_length_im ..).trans (updateElements_length_im ..)⟩
  refine { hs with
    frame := hs.frame.trans (wroteBack_laneWork ..).jobFrame
    slotSized := fun n => ?_
    others := fun x hx => ?_ }
  · cases n with
    | bbuf b => exact hs.slotSized (.bbuf b)
    | wbs => exact hscratch.sized (hs.slotSized .wbs)
  · refine ((hs.stores hB r _).2 x fun hin => hx ?_).trans (hs.others x hx)
    rw [hs.frame.inElements] at hin
    obtain ⟨l, hl, hx'⟩ := inElements_addrC hin
    exact ⟨_, _, hB.inRanges hr hl, hx'⟩

/-- The write-back of row `r` of the block finishes its elements and no other. -/
theorem wroteBack_progress (hB : B.Fits) (hs : B.Reached s) (hsums : B.Sums (fun _ => B.job.dimN.toNat) s)
    {D : Nat → Nat → Prop} (hprogress : B.job.Progress s B.f D) {r : BitVec 2} (hr : r.toNat < B.rows)
    (hD : ∀ l < B.len, ¬ D (B.row + r.toNat) (B.col + l)) :
    B.job.Progress (s.wroteBack B.f r (B.job.addrC B.f (B.row + r.toNat) B.col)) B.f
      fun i c => D i c ∨ i = B.row + r.toNat ∧ B.col ≤ c ∧ c < B.col + B.len := by
  have hreached := wroteBack_reached hB hs hr
  have hstores := hs.stores hB r (B.job.addrC B.f (B.row + r.toNat) B.col)
  have hsummed := hs.summed hB hsums hr
  generalize s.wroteBack B.f r (B.job.addrC B.f (B.row + r.toNat) B.col) = t at hreached hstores ⊢
  have hparams : t.params = s.params := hreached.frame.params.trans hs.frame.params.symm
  have hrow : ∀ l < B.len, t.element B.f (B.job.addrC B.f (B.row + r.toNat) (B.col + l)) =
      B.job.result B.f (B.row + r.toNat) (B.col + l) := fun l hl => by
    have hvalues := values_addrC t B.f (B.row + r.toNat) B.col l
    rw [hreached.frame.addrC] at hvalues
    rw [← hvalues, storesElements_values hparams hstores hl, hsummed l hl]
    simp only [hprogress.pending _ _ (hB.inRanges hr hl) (hD l hl)]
    rfl
  have hkept : ∀ i c, B.job.inRanges i c → ¬ (i = B.row + r.toNat ∧ B.col ≤ c ∧ c < B.col + B.len) →
      t.element B.f (B.job.addrC B.f i c) = s.element B.f (B.job.addrC B.f i c) := fun i c hic hother =>
    element_congr hparams fun x hx => hstores.2 x fun hin => by
      rw [hs.frame.inElements] at hin hx
      obtain ⟨l, hl, hxl⟩ := inElements_addrC hin
      obtain ⟨rfl, rfl⟩ := addrC_disjoint hB.wellFormed hic (hB.inRanges hr hl) hx hxl
      exact hother ⟨rfl, by omega, by omega⟩
  refine ⟨fun i c hic hd => ?_, fun i c hic hd => ?_⟩
  · by_cases hcase : i = B.row + r.toNat ∧ B.col ≤ c ∧ c < B.col + B.len
    · obtain ⟨rfl, hlo, hhi⟩ := hcase
      obtain ⟨l, rfl⟩ := Nat.exists_eq_add_of_le hlo
      exact hrow l (by omega)
    · rw [hkept i c hic hcase, hprogress.finished i c hic (hd.resolve_right hcase)]
  · rw [hkept i c hic fun h => hd (.inr h), hprogress.pending i c hic fun h => hd (.inl h)]

/-- The elements done when all columns below `p` are, and of those below `q` the rows below `i`. -/
def doneBefore (p q i : Nat) (r c : Nat) : Prop := c < p ∨ c < q ∧ r < i

/-- Line W1 (43_scheduler.md R180): the rows of the block are finished. -/
theorem jobWritebacks_progress (hB : B.Fits) (hs : B.Reached s) (hsums : B.Sums (fun _ => B.job.dimN.toNat) s)
    (hprogress : B.job.Progress s B.f (doneBefore B.col (B.col + B.len) B.row)) :
    (forRows (jobWriteback none B.f) B.rows s).Ends (fun _ => True)
      (fun t => B.Reached t ∧ B.job.Progress t B.f (doneBefore B.col (B.col + B.len) (B.row + B.rows))) s := by
  have hloop := forRows_ends (s := s) (op := jobWriteback none B.f) (rows := B.rows) (P := fun _ => True)
    (I := fun k t => B.Reached t ∧ B.Sums (fun _ => B.job.dimN.toNat) t ∧
      B.job.Progress t B.f (doneBefore B.col (B.col + B.len) (B.row + k)))
    ⟨hs, hsums, hprogress⟩ fun k hk u ⟨hu, hsums, hprogress⟩ => ?_
  · exact hloop.mono (fun _ => id) fun t ⟨ht, _, hprogress⟩ => ⟨ht, hprogress⟩
  · have hrow := toNat_ofNat_row hB hk
    rw [jobWriteback, hu.frame.addrC, hu.mCur, hu.pCur]
    refine (writeback_ends B.f u _ _).mono (fun _ _ => trivial) fun t ⟨_, ht⟩ => ?_
    subst ht
    have hr : (BitVec.ofNat 2 k).toNat < B.rows := hrow.symm ▸ hk
    refine ⟨wroteBack_reached hB hu hr, hsums, (wroteBack_progress hB hu hsums hprogress hr ?_).congr ?_⟩
    · intro l hl
      simp only [doneBefore, hrow]
      omega
    · intro i c _
      simp only [doneBefore, hrow]
      omega

/-- What is finished depends on the memory alone. -/
theorem State.Progress.of_mem {j s t : State} {f : Format} {D : Nat → Nat → Prop} (h : j.Progress s f D)
    (hmem : t.mem = s.mem) (hparams : t.params = s.params) : j.Progress t f D := by
  have hsame a : t.element f a = s.element f a := element_congr hparams fun x _ => by rw [hmem]
  exact ⟨fun r c hrc hd => (hsame _).trans (h.finished r c hrc hd), fun r c hrc hd =>
    (hsame _).trans (h.pending r c hrc hd)⟩

/-- Line I5 (43_scheduler.md R177): the operands of the first index. -/
theorem jobInit_loads (hB : B.Fits) (hdimN : 1 ≤ B.job.dimN.toNat) (hmem : s.mem = B.mem)
    (hs : B.Reached (s.blockStart B.f B.rows)) (hsums : B.Sums (fun _ => 0) (s.blockStart B.f B.rows)) :
    (jobInit none B.f B.rows s).Ends (fun _ => True) (B.AtIndex 0 fun _ => 0) s := by
  have hpCur : s.pCur.toNat = B.col := hs.pCur
  obtain ⟨hreached, hbuffer⟩ := hs.loaded hB hdimN (.bbuf 0)
  rw [jobInit_eq_vload, hs.frame.addrB, hpCur]
  refine ((vload_ends B.f _ _ _).mono (fun _ _ => trivial) fun t ⟨_, ht⟩ => ?_).after (.of_trace rfl)
  subst ht
  exact { hreached with mem := hmem, nCur := rfl, sums := hsums, buffer := fun _ => hbuffer }

/-- From its start to its end a block finishes its elements. -/
theorem jobBlock_progress (hB : B.Fits) (hdimN : 1 ≤ B.job.dimN.toNat) (hmem : s.mem = B.mem)
    (hs : B.Reached (s.blockStart B.f B.rows)) (hsums : B.Sums (fun _ => 0) (s.blockStart B.f B.rows))
    (hprogress : B.job.Progress s B.f (doneBefore B.col (B.col + B.len) B.row)) :
    (jobBlock none B.f B.rows s).Ends (fun _ => True)
      (fun t => B.Reached t ∧ B.job.Progress t B.f (doneBefore B.col (B.col + B.len) (B.row + B.rows))) s := by
  obtain ⟨k, hk⟩ := Nat.exists_eq_add_of_le' hdimN
  have hsteady := (jobInit_loads hB hdimN hmem hs hsums).andThen
    (k := fun u => jobSteady none B.f B.rows u.halfIterations u)
    (Q' := B.AtIndex B.job.dimN.toNat fun _ => B.job.dimN.toNat) fun u hu => by
      have hsum := jobSteady_accumulates (k := k) hB hu (by omega)
      rw [← hk] at hsum
      rwa [halfIterations_eq (by rwa [hu.frame.dimN]), hu.frame.dimN]
  refine hsteady.andThen fun u hu => ?_
  have hparams : u.params = s.params := hu.frame.params.trans hs.frame.params.symm
  exact jobWritebacks_progress hB hu.toReached hu.sums (hprogress.of_mem (hu.mem.trans hmem.symm) hparams)

end

end Sys2Proof.Machine
end

section
/-! What a job computes (spec/43_scheduler.md R174, R185): its blocks, one after the other, finish the elements of its
part of C, until all of them are. -/

namespace Sys2Proof.Machine

/-! ### The start of a block -/

/-- A format that widens is neither the widest nor of the largest grouping (10_state.md R30). -/
theorem narrow_of_widen {v : Word} {f : Format} (hlegal : legalFmt v = true) (hformat : formatOf v = some f)
    (hwiden : f.widen = true) : f.storage.code ≠ 3 ∧ f.grp ≠ 3 := by
  obtain ⟨w, hw, rfl⟩ := Option.map_eq_some_iff.1 hformat
  obtain ⟨-, -, hcode, hgrp⟩ := (legalFmt_iff v).1 hlegal
  rw [(width_ofCode_eq_some _ w).1 hw]
  exact ⟨fun h => hcode ⟨hwiden, h⟩, fun h => hgrp ⟨hwiden, h⟩⟩

section
variable {s : State} {f : Format} {rows : Nat}

/-- Init clears the lanes of the tile in each row of the block, at the accumulator width (43_scheduler.md R177). -/
theorem blockStart_accRow_of_lt (hnarrow : f.widen = true → f.storage.code ≠ 3 ∧ f.grp ≠ 3) {r : BitVec 2}
    (hr : r.toNat < rows) :
    (s.blockStart f rows).accRow r = zeroLanes f.acc (s.indexStart f).vl.toNat (s.accRow r) := by
  have hmask : (BitVec.ofNat 4 (2 ^ rows - 1)).getLsbD r.toNat = true := by
    have := r.isLt
    rw [BitVec.getLsbD_ofNat, Nat.testBit_two_pow_sub_one]
    simp [hr]
    omega
  cases hw : f.widen with
  | true =>
    obtain ⟨hcode, hgrp⟩ := hnarrow hw
    have hvl : (s.negotiate s.tileRemaining (f.storage.code + 1) (f.grp + 1)).vl = (s.indexStart f).vl := by
      simp only [State.indexStart, negotiate_vl, grant, vlmax_double s.params hcode hgrp]
    have hrow := czero_accRow (s.negotiate s.tileRemaining (f.storage.code + 1) (f.grp + 1)) f.acc
      (BitVec.ofNat 4 (2 ^ rows - 1)) r
    rw [if_pos hmask, hvl] at hrow
    simp only [State.blockStart, hw]
    exact hrow
  | false =>
    have hrow := czero_accRow (s.negotiate s.tileRemaining f.storage.code f.grp) f.acc
      (BitVec.ofNat 4 (2 ^ rows - 1)) r
    rw [if_pos hmask] at hrow
    simp only [State.blockStart, hw]
    exact hrow

end

/-! ### One block of a job -/

/-- A job that runs to its end and keeps the buffer contract: well-formed, its requests admitted, its writes apart from
its reads (43_scheduler.md R172, 20_memory.md R66, R80). -/
structure State.Contract (j : State) (f : Format) : Prop where
  wellFormed : j.WellFormedJob f
  admitted : j.JobAdmitted f
  disjoint : j.JobDisjoint f

/-- The job started in `j` has come to `s`: the invariant holds, no byte but of its part of C is written, and of that
part the elements in `D` are finished. -/
structure State.Computes (j s : State) (f : Format) (D : Nat → Nat → Prop) : Prop where
  frame : j.JobFrame s
  inv : s.Inv
  others : ∀ x, ¬ j.writesC f x → s.mem.read x = j.mem.read x
  progress : j.Progress s f D

/-- The length of the tile at the column cursor. -/
def State.tileLength (s : State) (f : Format) : Nat :=
  min (s.pEnd.toNat - s.pCur.toNat) (vlmax s.params f.storage.code f.grp)

/-- The block of `rows` rows at the cursors of `s`, in the job started in `j`. -/
def State.blockAt (j s : State) (f : Format) (rows : Nat) : Block where
  job := j
  f := f
  row := s.mCur.toNat
  col := s.pCur.toNat
  rows := rows
  len := s.tileLength f
  mem := s.mem

section
variable {j s t : State} {f : Format} {rows rb : Nat} {D D' : Nat → Nat → Prop}

theorem State.Computes.congr (h : j.Computes s f D) (hD : ∀ r c, j.inRanges r c → (D r c ↔ D' r c)) :
    j.Computes s f D' := { h with progress := h.progress.congr hD }

theorem indexStart_vl (s : State) (f : Format) : (s.indexStart f).vl.toNat = s.tileLength f := rowsEnd_vl s f

theorem State.JobFrame.runnable (h : j.JobFrame s) (hj : j.Runnable f) : s.Runnable f := by
  rw [h.frame]
  exact { hj with }

theorem State.Contract.runnable (hj : j.Contract f) : j.Runnable f := runnable_of_wellFormed hj.wellFormed hj.admitted

theorem State.Contract.narrow (hj : j.Contract f) (hwiden : f.widen = true) : f.storage.code ≠ 3 ∧ f.grp ≠ 3 :=
  narrow_of_widen hj.wellFormed.legal hj.wellFormed.format hwiden

/-- The configuration that Init negotiates fits the format (40_vln.md R124). -/
theorem blockStart_fits (hj : j.Contract f) (s : State) (rows : Nat) :
    (s.blockStart f rows).vcfgFits f f.storage.code true :=
  ⟨rfl, rfl, fun ⟨_, hwiden, hgrp⟩ => (hj.narrow hwiden).2 hgrp⟩

theorem blockAt_fits (hj : j.Contract f) (hs : j.Computes s f D) (htile : s.AtTile f) (hrows : rows ≤ 4)
    (hfits : s.mCur.toNat + rows ≤ s.mEnd.toNat) : (j.blockAt s f rows).Fits := by
  have hinv := (blockStart_effect f rows s).inv hs.inv
  have hconfig := blockStart_fits hj s rows
  have hvl : (s.blockStart f rows).vl.toNat = s.tileLength f := indexStart_vl s f
  have hparams : (s.blockStart f rows).params = j.params := hs.frame.params
  have hformat : (s.blockStart f rows).format = some f := by
    rw [← hj.wellFormed.format]
    exact congrArg formatOf (congrArg State.fmt hs.frame.frame :)
  have hstorage := lanes_le_vlen hinv hconfig
  have hacc := widenedLanes_le_vlen hinv hformat hconfig
  rw [hvl, hparams] at hstorage hacc
  have hmStart : s.mStart = j.mStart := (congrArg State.mStart hs.frame.frame :)
  have hmEnd : s.mEnd = j.mEnd := (congrArg State.mEnd hs.frame.frame :)
  have hpStart : s.pStart = j.pStart := (congrArg State.pStart hs.frame.frame :)
  have hpEnd : s.pEnd = j.pEnd := (congrArg State.pEnd hs.frame.frame :)
  have hlast : s.pCur.toNat + s.tileLength f ≤ s.pEnd.toNat := by
    have := htile.pEnd
    unfold State.tileLength
    omega
  exact
    { wellFormed := hj.wellFormed
      disjoint := hj.disjoint
      rowStart := hmStart ▸ htile.mStart
      rowEnd := hmEnd ▸ hfits
      colStart := hpStart ▸ htile.pStart
      colEnd := hpEnd ▸ hlast
      rows_le := hrows
      storageLanes := hstorage
      accLanes := hacc }

theorem blockAt_reached (hs : j.Computes s f D) (rows : Nat) :
    (j.blockAt s f rows).Reached (s.blockStart f rows) := by
  have hinv := (blockStart_effect f rows s).inv hs.inv
  have hparams : (s.blockStart f rows).params = j.params := hs.frame.params
  exact
    { frame := hs.frame.trans (blockStart_sameBlock s f rows).toJobFrame
      mCur := rfl
      pCur := rfl
      vl := indexStart_vl s f
      accSized := hparams ▸ hinv.accSized
      slotSized := hparams ▸ hinv.slotSized
      others := hs.others }

theorem blockAt_sums (hj : j.Contract f) (hs : j.Computes s f D) (hB : (j.blockAt s f rows).Fits) :
    (j.blockAt s f rows).Sums (fun _ => 0) (s.blockStart f rows) := fun r hr => by
  have hsized : (s.accRow r).sized j.params := hs.frame.params ▸ hs.inv.accSized r
  have hrow := blockStart_accRow_of_lt (s := s) hj.narrow (show r.toNat < rows from hr)
  rw [indexStart_vl] at hrow
  exact hrow.symm ▸ (zeroLanes_updated hsized hB.accLanes).holds

/-- A block that is done has finished its elements. -/
theorem jobBlock_computes (hj : j.Contract f) (htile : s.AtTile f) (hrows : rows ≤ 4)
    (hfits : s.mCur.toNat + rows ≤ s.mEnd.toNat)
    (hs : j.Computes s f (doneBefore s.pCur.toNat (s.pCur.toNat + s.tileLength f) s.mCur.toNat))
    (hdone : jobBlock none f rows s = .done t) :
    j.Computes t f (doneBefore s.pCur.toNat (s.pCur.toNat + s.tileLength f) (s.mCur.toNat + rows)) := by
  have hB := blockAt_fits hj hs htile hrows hfits
  have hends := jobBlock_progress hB hj.wellFormed.dimN rfl (blockAt_reached hs rows) (blockAt_sums hj hs hB)
    hs.progress
  have heffect := (jobBlock_does none f s rows).effect
  change (jobBlock none f rows s).Ends _ _ s at hends
  rw [hdone] at hends heffect
  obtain ⟨-, hreached, hprogress⟩ := hends
  exact ⟨hreached.frame, heffect.inv hs.inv, hreached.others, hprogress⟩

/-! ### The loop nest -/

theorem State.Computes.setMCur (h : j.Computes s f D) (x : Word) : j.Computes { s with mCur := x } f D :=
  ⟨h.frame.trans ⟨rfl⟩, { h.inv with }, h.others, h.progress.of_mem rfl rfl⟩

theorem State.Computes.setPCur (h : j.Computes s f D) (x : Word) : j.Computes { s with pCur := x } f D :=
  ⟨h.frame.trans ⟨rfl⟩, { h.inv with }, h.others, h.progress.of_mem rfl rfl⟩

/-- The row blocks of a column tile, from column `p` to column `q`, finish its elements. -/
theorem jobBlocks_computes {fuel p q : Nat} (hj : j.Contract f) (htile : s.AtTile f) (hrb : 1 ≤ rb) (hrb' : rb ≤ 4)
    (hrow : s.mCur.toNat < s.mEnd.toNat) (hfuel : s.mEnd.toNat - s.mCur.toNat ≤ fuel) (hp : s.pCur.toNat = p)
    (hq : p + s.tileLength f = q) (hs : j.Computes s f (doneBefore p q s.mCur.toNat))
    (hdone : jobBlocks none f rb fuel s = .done t) : j.Computes t f (doneBefore p q s.mEnd.toNat) := by
  induction fuel generalizing s with
  | zero => omega
  | succ fuel ih =>
    obtain ⟨hpos, hle, hfits⟩ := blockRows_bounds hrb hrow
    obtain ⟨u, hblock, hu⟩ := (jobBlock_works htile (hle.trans hrb') hfits).mono hle
    have hcomputes : j.Computes u f (doneBefore p q (s.mCur.toNat + s.blockRows rb)) := by
      subst hp hq
      exact jobBlock_computes hj htile (hle.trans hrb') hfits hs hblock
    have hu_mEnd : u.mEnd = s.mEnd := (congrArg State.mEnd hu.frame :)
    have hnext : (u.mCur + BitVec.ofNat 32 (s.blockRows rb)).toNat = s.mCur.toNat + s.blockRows rb := by
      have hu_mCur : u.mCur = s.mCur := hu.mCur
      have hlt := s.mEnd.isLt
      rw [hu_mCur, BitVec.toNat_add, BitVec.toNat_ofNat]
      omega
    rw [jobBlocks_next fuel hblock] at hdone
    generalize u.mCur + BitVec.ofNat 32 (s.blockRows rb) = next at hnext hdone
    rw [← hnext] at hcomputes
    split at hdone
    · rename_i hend
      cases hdone
      have hend' : next.toNat = s.mEnd.toNat := by rw [hu_mEnd] at hend; omega
      exact hend' ▸ hcomputes.setMCur next
    · rename_i hmore
      have htile' : ({ s.blockEnd f with mCur := next } : State).AtTile f :=
        { htile with
          runnable := htile.runnable.withSchedule
          mStart := by have := htile.mStart; change s.mStart.toNat ≤ next.toNat; omega }
      have hp' : u.pCur.toNat = p := (congrArg BitVec.toNat hu.pCur).trans hp
      have hq' : p + u.tileLength f = q := by
        rw [← hq, State.tileLength, State.tileLength, hu.frame]
        rfl
      have hfuel' : u.mEnd.toNat - next.toNat ≤ fuel := by rw [hu_mEnd]; omega
      rw [← hu_mEnd]
      exact ih (s := { u with mCur := next }) ((hu.setMCur next).atTile htile') (Nat.lt_of_not_le hmore)
        hfuel' hp' hq' (hcomputes.setMCur next) hdone

/-- The column tiles from the column cursor on finish the columns from there on. -/
theorem jobTiles_computes {fuel : Nat} (hj : j.Contract f) (hrb : 1 ≤ rb) (hrb' : rb ≤ 4)
    (hrows : s.mStart.toNat < s.mEnd.toNat) (hstart : s.pStart.toNat ≤ s.pCur.toNat)
    (hcolumn : s.pCur.toNat < s.pEnd.toNat) (hfuel : s.pEnd.toNat - s.pCur.toNat ≤ fuel)
    (hs : j.Computes s f fun _ c => c < s.pCur.toNat) (hdone : jobTiles none f rb fuel s = .done t) :
    j.Computes t f fun _ c => c < s.pEnd.toNat := by
  induction fuel generalizing s with
  | zero => omega
  | succ fuel ih =>
    have htile : ({ s with mCur := s.mStart } : State).AtTile f :=
      { runnable := (hs.frame.runnable hj.runnable).withSchedule
        mStart := le_rfl, pStart := hstart, pEnd := hcolumn.le }
    obtain ⟨u, hblocks, hu⟩ := jobBlocks_works htile hrb hrb' hrows le_rfl
    have hmStart : s.mStart = j.mStart := (congrArg State.mStart hs.frame.frame :)
    have hmEnd : s.mEnd = j.mEnd := (congrArg State.mEnd hs.frame.frame :)
    have hbefore : j.Computes { s with mCur := s.mStart } f
        (doneBefore s.pCur.toNat (s.pCur.toNat + s.tileLength f) s.mStart.toNat) :=
      (hs.setMCur s.mStart).congr fun r c ⟨hr, _, _, _⟩ => by
        rw [doneBefore, hmStart]
        omega
    have hafter : j.Computes u f fun _ c => c < s.pCur.toNat + s.tileLength f :=
      (jobBlocks_computes (p := s.pCur.toNat) (q := s.pCur.toNat + s.tileLength f) hj htile hrb hrb' hrows le_rfl rfl
        rfl hbefore hblocks).congr fun r c ⟨_, hr, _, _⟩ => by
          rw [← hmEnd] at hr
          change c < _ ∨ c < _ ∧ r < s.mEnd.toNat ↔ _
          omega
    have hu_pEnd : u.pEnd = s.pEnd := (congrArg State.pEnd hu.frame :)
    have hnext : (u.pCur + u.vl).toNat = s.pCur.toNat + s.tileLength f := by
      have hpCur : u.pCur = s.pCur := hu.pCur
      have hvl : u.vl.toNat = s.tileLength f := (congrArg BitVec.toNat hu.vl).trans (rowsEnd_vl s f)
      have hle : s.tileLength f ≤ s.pEnd.toNat - s.pCur.toNat := Nat.min_le_left ..
      have hlt := s.pEnd.isLt
      rw [hpCur, BitVec.toNat_add, hvl]
      omega
    have hpos : 0 < s.tileLength f := lt_min (by omega) (vlmax_pos ..)
    rw [jobTiles_next (s := s) fuel hblocks] at hdone
    generalize u.pCur + u.vl = next at hnext hdone
    rw [← hnext] at hafter
    split at hdone
    · rename_i hend
      cases hdone
      have hle : s.tileLength f ≤ s.pEnd.toNat - s.pCur.toNat := Nat.min_le_left ..
      have hend' : next.toNat = s.pEnd.toNat := by rw [hu_pEnd] at hend; omega
      exact hend' ▸ hafter.setPCur next
    · rename_i hmore
      have hrows' : u.mStart.toNat < u.mEnd.toNat := by rw [hu.frame]; exact hrows
      have hstart' : u.pStart.toNat ≤ next.toNat := by rw [hu.frame]; exact hstart.trans (by omega)
      have hfuel' : u.pEnd.toNat - next.toNat ≤ fuel := by rw [hu_pEnd]; omega
      rw [← hu_pEnd]
      exact ih (s := { u with pCur := next }) hrows' hstart' (Nat.lt_of_not_le hmore) hfuel' (hafter.setPCur next) hdone

/-- A job that keeps its contract ends done, with all elements of its part of C finished. -/
theorem jobRun_computes (hj : j.Contract f) (hinv : j.Inv) (hrb : 1 ≤ rb) (hrb' : rb ≤ 4) :
    ∃ t, jobRun none f rb j = .done t ∧ j.Computes t f fun _ _ => True := by
  have hstart : j.Computes { j with rbf := rb == 4, pCur := j.pStart } f fun _ _ => False :=
    ⟨⟨rfl⟩, { hinv with }, fun _ _ => rfl, fun _ _ _ h => h.elim, fun _ _ _ _ => rfl⟩
  by_cases hempty : j.mEnd.toNat ≤ j.mStart.toNat ∨ j.pEnd.toNat ≤ j.pStart.toNat
  · refine ⟨_, jobRun_empty none f rb hempty, ⟨⟨rfl⟩, { hinv with }, fun _ _ => rfl, ?_⟩⟩
    exact ⟨fun r c ⟨_, _, _, _⟩ _ => by omega, fun _ _ _ h => absurd trivial h⟩
  · obtain ⟨t, hdone, -⟩ := jobRun_works (rb := rb) hj.runnable hrb hrb' (by omega) (by omega)
    refine ⟨t, hdone, ?_⟩
    rw [jobRun, if_neg hempty] at hdone
    have hcomputes := jobTiles_computes hj hrb hrb'
      (s := { j with rbf := rb == 4, pCur := j.pStart }) (by change j.mStart.toNat < j.mEnd.toNat; omega) le_rfl
      (by change j.pStart.toNat < j.pEnd.toNat; omega) le_rfl
      (hstart.congr fun r c ⟨_, _, hc, _⟩ => iff_of_false id (Nat.not_lt.2 hc)) hdone
    exact hcomputes.congr fun r c ⟨_, _, _, hc⟩ => iff_true_intro hc

end

/-! ### Job commands -/

/-- A job that keeps its contract answers 0, its part of C finished and no other byte written. -/
theorem exec_job_computes {s u : State} {i : Instr} {rb : Nat} {f : Format} (hinv : s.Inv) (hfault : s.fault = false)
    (hjob : jobOf s i = some (rb, u)) (hu : u.Contract f) :
    ∃ t, exec i s = .next (t.respond 0) ∧ u.Computes t f fun _ _ => True := by
  have hu_inv : u.Inv := by
    rw [jobOf_frame hjob]
    exact { hinv with }
  obtain ⟨hrb, -⟩ := jobOf_some hjob
  obtain ⟨t, hdone, ht⟩ := jobRun_computes (rb := rb) hu hu_inv (by omega) (by omega)
  exact ⟨t, by rw [exec_job hfault hjob hu.wellFormed.format, hdone, finish_done], ht⟩

/-- Settles O40: the job finishes every element of its part of C. -/
theorem jobComputesProduct : Obligations.JobComputesProduct := by
  intro s u i rb f hinv hfault hjob hwf hadmitted hdisjoint
  obtain ⟨t, hexec, ht⟩ := exec_job_computes hinv hfault hjob ⟨hwf, hadmitted, hdisjoint⟩
  have hu := jobOf_frame hjob
  have hmem : u.mem = s.mem := by rw [hu]
  have hparams : u.params = s.params := by rw [hu]
  have hdimN : u.dimN = s.dimN := by rw [hu]
  have hresponses : t.responses = s.responses := by rw [ht.frame.frame, hu]
  refine ⟨_, hexec, congrArg _ hresponses, fun r c hrc => ?_, fun x hx => ?_⟩
  · have helement a : u.element f a = s.element f a := element_congr hparams fun x _ => by rw [hmem]
    have hresult := ht.progress.finished r c hrc trivial
    rw [State.result, helement, hdimN] at hresult
    exact hresult
  · exact (ht.others x hx).trans (by rw [hmem])

end Sys2Proof.Machine
end

section
/-! Row-block independence (spec/43_scheduler.md R186): two jobs on the same ranges that finish the same elements of C
leave the same bytes, whatever their row-block factors. -/

namespace Sys2Proof.Machine

/-- A job's memory is determined by its start: every byte is one of a finished element of C, or unwritten. -/
theorem State.Computes.mem_eq {j t u : State} {f : Format} (ht : j.Computes t f fun _ _ => True)
    (hu : j.Computes u f fun _ _ => True) : u.mem = t.mem := by
  refine Memory.ext hu.inv.memWf ht.inv.memWf fun x => ?_
  by_cases hx : j.writesC f x
  · obtain ⟨r, c, hrc, hx⟩ := hx
    have hresult := (hu.progress.finished r c hrc trivial).trans (ht.progress.finished r c hrc trivial).symm
    rw [← ht.frame.inElements] at hx
    exact read_eq_of_element_eq (hu.frame.params.trans ht.frame.params.symm) hresult hx
  · exact (hu.others x hx).trans (ht.others x hx).symm

/-- Two jobs on the same ranges that run to their ends, of either factor, differ in the slots, the coefficients, the
factor flag and the requests at most. -/
theorem jobRun_independent {s t u : State} {f : Format} {rb rb' : Nat} (hmem : u.mem = t.mem)
    (ht : (s.jobEnd f rb).LaneWork rb t) (hu : (s.jobEnd f rb').LaneWork rb' u) :
    u = { t with acc := u.acc, bbuf := u.bbuf, wbs := u.wbs, scal := u.scal, rbf := u.rbf, trace := u.trace } := by
  have hrbf : u.rbf = (rb' == 4) := (congrArg State.rbf hu.frame :)
  calc u = { s.jobEnd f rb' with
        acc := u.acc, bbuf := u.bbuf, wbs := u.wbs, scal := u.scal, mem := t.mem, trace := u.trace } :=
        hmem ▸ hu.frame
    _ = { s.jobEnd f rb with
        acc := u.acc, bbuf := u.bbuf, wbs := u.wbs, scal := u.scal, rbf := u.rbf, mem := t.mem, trace := u.trace } := by
        rw [hrbf]
        rfl
    _ = { t with acc := u.acc, bbuf := u.bbuf, wbs := u.wbs, scal := u.scal, rbf := u.rbf, trace := u.trace } := by
        conv_rhs => rw [ht.frame]

/-- Settles O41: the memories agree by what both jobs compute, the schedules by where both end. -/
theorem rowBlockIndependence : Obligations.RowBlockIndependence := by
  intro s t u f hinv hfault hwf hadmitted hdisjoint ht hu
  have hj : s.Contract f := ⟨hwf, hadmitted, hdisjoint⟩
  rw [exec_job hfault (i := .mm2) rfl hwf.format] at ht
  rw [exec_job hfault (i := .mm4) rfl hwf.format] at hu
  cases ht
  cases hu
  by_cases hempty : s.mEnd.toNat ≤ s.mStart.toNat ∨ s.pEnd.toNat ≤ s.pStart.toNat
  · rw [jobRun_empty none f 2 hempty, jobRun_empty none f 4 hempty]
    rfl
  · obtain ⟨t, ht, htcomputes⟩ := jobRun_computes (rb := 2) hj hinv (by decide) (by decide)
    obtain ⟨u, hu, hucomputes⟩ := jobRun_computes (rb := 4) hj hinv (by decide) (by decide)
    obtain ⟨_, ht', htwork⟩ := jobRun_works (rb := 2) hj.runnable (by decide) (by decide) (by omega) (by omega)
    obtain ⟨_, hu', huwork⟩ := jobRun_works (rb := 4) hj.runnable (by decide) (by decide) (by omega) (by omega)
    cases ht.symm.trans ht'
    cases hu.symm.trans hu'
    rw [ht, hu]
    exact congrArg (State.respond · 0) (jobRun_independent (htcomputes.mem_eq hucomputes) htwork huwork)

end Sys2Proof.Machine
end

section
/-! The command WB with every request admitted (spec/44_writeback.md R200, R201): the sums, first in the scratch, then
in memory. -/

namespace Sys2Proof.Machine

theorem State.storesElements.congr {s : State} {m : Memory} {f : Format} {a n : Nat}
    {v v' : Nat → BitVec f.storage.bits × BitVec f.storage.bits} (h : s.storesElements m f a n v)
    (hv : ∀ i < n, v i = v' i) : s.storesElements m f a n v' := by
  obtain ⟨hinside, houtside⟩ := h
  exact ⟨fun i hi => hv i hi ▸ hinside i hi, houtside⟩

theorem exec_wb_ok {s : State} {f : Format} {row : BitVec 2} (hfault : s.fault = false) (hformat : s.format = some f)
    (hfits : s.vcfgFits f f.storage.code true) (haligned : s.addrOperand % f.eb = 0)
    (hread : s.admitsElements .read f s.addrOperand s.vl.toNat)
    (hwrite : s.admitsElements .write f s.addrOperand s.vl.toNat) :
    exec (.wb row) s = .next ((s.wroteBack f row s.addrOperand).answered 0) := by
  rw [exec_wb hfault hformat row hfits, writeback_ok row haligned hread hwrite]
  rfl

/-- Settles O35: the load and the addition leave the sums in the scratch, and the store, which makes its requests after
all the reads, puts those lanes at elements that do not wrap onto each other. -/
theorem wbAddsRow : Obligations.WbAddsRow := by
  intro s f row hinv hfault hformat hfits haligned hadmits
  have hsums := summedPair_updated s row s.addrOperand (hinv.slotSized .wbs) (lanes_le_vlen hinv hfits)
  have hstores := storedMem_storesElements s (x := s.summedPair f row s.addrOperand) s.addrOperand
    (elements_le_space hinv hfits le_rfl)
  exact ⟨_, _, exec_wb_ok hfault hformat hfits haligned (hadmits .read) (hadmits .write), hsums,
    hstores.congr hsums.holds⟩

end Sys2Proof.Machine
end

section
/-! NOP and SRESET (spec/45_dispatch_control.md R212, R213): the words that spell them, and what they leave. -/

namespace Sys2Proof.Machine

/-! ### Words without operands (30_encoding.md R92, R95) -/

/-- Format Z requires every bit above OPC to be zero. -/
theorem and_mustBeZero_Z_ne_zero {w : Word} (h : w.extractLsb' 8 24 ≠ 0) : w &&& mustBeZero .Z ≠ 0 := by
  refine mt (fun hzero => ?_) h
  have hones : (mustBeZero .Z).extractLsb' 8 24 = BitVec.allOnes 24 := by decide
  calc w.extractLsb' 8 24 = (w &&& mustBeZero .Z).extractLsb' 8 24 := by
        rw [BitVec.extractLsb'_and, hones, BitVec.and_allOnes]
    _ = 0 := by rw [hzero]; rfl

/-- Ground (2) of R95 for a command of format Z. -/
theorem decode_unusedBits_of_format_Z {w : Word} {i : Instr} (hformat : i.format = .Z) (hopc : fieldOpc w = i.opcode)
    (hoperands : i.OperandsIn w) (hupper : w.extractLsb' 8 24 ≠ 0) : decode w = .error .nonzeroUnusedBits := by
  have hmap : opcodeMap w = some (.Z, i) := (opcodeMap_eq_some_iff w .Z i).2 ⟨hopc, hformat.symm, hoperands⟩
  simp only [decode, hmap, and_mustBeZero_Z_ne_zero hupper, ne_eq, not_false_eq_true, if_true]

/-! ### Ends of a command without an address -/

theorem raiseFault_eq_faulted {s : State} (hfault : s.fault = false) (c : Cause) :
    s.raiseFault c 0 = s.faulted c 0 := finish_raised_running hfault (.inr (.inr rfl))

theorem raiseFault_eq_turnedAway {s : State} (hfault : s.fault = true) (c : Cause) (n : Nat) :
    s.raiseFault c n = s.turnedAway := raiseFault_faulted hfault c n

/-- Settles O14, by whether a fault stands recorded. -/
theorem nopAnswersZero : Obligations.NopAnswersZero := by
  refine ⟨decodeEncodeRoundTrip .nop rfl, fun w hopc hupper => ?_, fun s hfault => ?_, fun s hfault => ?_⟩
  · exact decode_unusedBits_of_format_Z (i := .nop) rfl hopc trivial hupper
  · exact next_unlessFaulted hfault _
  · exact congrArg Host.Outcome.next (unlessFaulted_faulted hfault _)

/-- A soft reset leaves every register and flag as a power-on does (10_state.md R44). -/
theorem softReset_controlReset (s : State) : s.softReset.controlReset :=
  powerOn_controlReset s.params s.acc s.bbuf s.wbs s.scal

/-- Settles O15: SRESET is the soft reset and its answer, and a word with its OPC and an unused bit set is an illegal
one like any other. -/
theorem sresetRestoresReset : Obligations.SresetRestoresReset := by
  refine ⟨decodeEncodeRoundTrip .sreset rfl, fun s c rest hinputs hopc hupper => ?_, fun s => ?_⟩
  · have hdecode := decode_unusedBits_of_format_Z (i := .sreset) rfl hopc trivial hupper
    rw [step_command hinputs, accept_error hdecode]
    exact ⟨fun hfault => congrArg _ (raiseFault_eq_faulted (by exact hfault) _),
      fun hfault => congrArg _ (raiseFault_eq_turnedAway (by exact hfault) _ _)⟩
  · exact ⟨s.softReset.respond 0, rfl, softReset_controlReset s, by simp⟩

end Sys2Proof.Machine
end

section
/-! CSRW and CSRR (spec/45_dispatch_control.md R214, R215): a number names at most one register, and which numbers
can be written is which registers CSRW has an effect on. -/

namespace Sys2Proof.Machine

/-! ### The register map (10_state.md R31) -/

/-- The number of a register. -/
def Csr.number : Csr → BitVec 12
  | .fmt => 0x000
  | .vl => 0x001
  | .vcfg => 0x002
  | .status => 0x003
  | .cause => 0x004
  | .fcmd => 0x005
  | .faddr => 0x006
  | .impl => 0x007
  | .cbase => 0x010
  | .abase => 0x011
  | .bbase => 0x012
  | .dimM => 0x013
  | .dimN => 0x014
  | .dimP => 0x015
  | .mStart => 0x016
  | .mEnd => 0x017
  | .pStart => 0x018
  | .pEnd => 0x019
  | .pCur => 0x01A
  | .mCur => 0x01B
  | .nCur => 0x01C

/-- The registers, by rising number. -/
def csrList : List Csr :=
  [.fmt, .vl, .vcfg, .status, .cause, .fcmd, .faddr, .impl, .cbase, .abase, .bbase, .dimM, .dimN, .dimP,
   .mStart, .mEnd, .pStart, .pEnd, .pCur, .mCur, .nCur]

@[simp] theorem csrOfNumber_number (r : Csr) : csrOfNumber r.number = some r := by cases r <;> rfl

theorem csrOfNumber_eq_some_iff {csr : BitVec 12} {r : Csr} : csrOfNumber csr = some r ↔ csr = r.number := by
  refine ⟨fun h => ?_, fun h => h ▸ csrOfNumber_number r⟩
  unfold csrOfNumber at h
  split at h
  case h_22 => cases h
  all_goals
    rename_i hnumber
    cases h
    exact BitVec.eq_of_toNat_eq hnumber

theorem csrTable_eq_map (s : State) : s.csrTable = csrList.map fun r => (r.number, s.csrValue r) := rfl

/-- The table holds the registers under their numbers, with their values, and nothing else. -/
theorem mem_csrTable_iff {s : State} {csr : BitVec 12} {d : DWord} :
    (csr, d) ∈ s.csrTable ↔ ∃ r, csrOfNumber csr = some r ∧ s.csrValue r = d := by
  constructor
  · intro h
    rw [csrTable_eq_map] at h
    obtain ⟨r, -, hr⟩ := List.mem_map.1 h
    cases hr
    exact ⟨r, csrOfNumber_number r, rfl⟩
  · rintro ⟨r, hr, rfl⟩
    exact csrValue_mem_csrTable hr s

/-! ### CSRR -/

theorem exec_csrr {csr : BitVec 12} {r : Csr} (h : csrOfNumber csr = some r) (s : State) :
    exec (.csrr csr) s = .next (s.answered (s.csrValue r)) := by
  change execCsrr csr s = _
  rw [execCsrr, h]
  rfl

theorem exec_csrr_unimplemented {csr : BitVec 12} (h : csrOfNumber csr = none) (s : State) :
    exec (.csrr csr) s = .next (s.raiseFault .illegalCsr 0) := by
  change execCsrr csr s = _
  rw [execCsrr, h]

/-- Settles O17, by whether the number names a register. -/
theorem csrrAnswersRegister : Obligations.CsrrAnswersRegister := by
  intro s csr
  have hunimplemented (h : ∀ d, (csr, d) ∉ s.csrTable) : csrOfNumber csr = none :=
    Option.eq_none_iff_forall_ne_some.2 fun r hr => h _ (mem_csrTable_iff.2 ⟨r, hr, rfl⟩)
  refine ⟨fun d hd => ?_, fun h hfault => ?_, fun h hfault => ?_⟩
  · obtain ⟨r, hr, rfl⟩ := mem_csrTable_iff.1 hd
    exact exec_csrr hr s
  · rw [exec_csrr_unimplemented (hunimplemented h), raiseFault_eq_faulted hfault]
  · rw [exec_csrr_unimplemented (hunimplemented h), raiseFault_eq_turnedAway hfault]

/-! ### CSRW -/

/-- A register that is not marked RW in 10_state.md R31 refuses a write (45_dispatch_control.md R214). -/
theorem csrWrite_readOnly {r : Csr} (h : r.number ∉ writableCsrs) (s : State) :
    s.csrWrite r = .raised .illegalCsr 0 s := by
  cases r with
  | fmt | cbase | abase | bbase | dimM | dimN | dimP | mStart | mEnd | pStart | pEnd => exact absurd (by decide) h
  | _ => rfl

section
variable {s : State} (hfault : s.fault = false)
include hfault

theorem exec_csrw_unimplemented {csr : BitVec 12} (h : csrOfNumber csr = none) :
    exec (.csrw csr) s = .next (s.faulted .illegalCsr 0) := by
  refine (next_unlessFaulted hfault _).trans ?_
  rw [h, raiseFault_eq_faulted hfault]

theorem exec_csrw (r : Csr) : exec (.csrw r.number) s = .next (s.csrWrite r).finish := by
  refine (next_unlessFaulted hfault _).trans ?_
  rw [csrOfNumber_number]

theorem exec_csrw_done {r : Csr} {t : State} (h : s.csrWrite r = .done t) :
    exec (.csrw r.number) s = .next (t.answered 0) := by
  rw [exec_csrw hfault, h]
  rfl

theorem exec_csrw_raised {r : Csr} {c : Cause} (h : s.csrWrite r = .raised c 0 s) :
    exec (.csrw r.number) s = .next (s.faulted c 0) := by
  rw [exec_csrw hfault, h, finish_raised, raiseFault_eq_faulted hfault]

/-- A number that is not that of a register marked RW faults, whether it names a register or none. -/
theorem exec_csrw_notWritable {csr : BitVec 12} (h : csr ∉ writableCsrs) :
    exec (.csrw csr) s = .next (s.faulted .illegalCsr 0) := by
  cases hr : csrOfNumber csr with
  | none => exact exec_csrw_unimplemented hfault hr
  | some r =>
    obtain rfl := csrOfNumber_eq_some_iff.1 hr
    exact exec_csrw_raised hfault (csrWrite_readOnly h s)

end

/-- Settles O16, register by register; the legality of the value is a question for FMT alone. -/
theorem csrwWritesRegister : Obligations.CsrwWritesRegister := by
  intro s hfault
  refine ⟨fun csr => exec_csrw_notWritable hfault, fun hillegal => ?fmt_illegal, fun hlegal => ?fmt_legal, ?_⟩
  case fmt_illegal => exact exec_csrw_raised (r := .fmt) hfault (if_neg (Bool.eq_false_iff.1 hillegal))
  case fmt_legal => exact exec_csrw_done (r := .fmt) hfault (if_pos hlegal)
  exact ⟨exec_csrw_done (r := .cbase) hfault rfl, exec_csrw_done (r := .abase) hfault rfl,
    exec_csrw_done (r := .bbase) hfault rfl, exec_csrw_done (r := .dimM) hfault rfl,
    exec_csrw_done (r := .dimN) hfault rfl, exec_csrw_done (r := .dimP) hfault rfl,
    exec_csrw_done (r := .mStart) hfault rfl, exec_csrw_done (r := .mEnd) hfault rfl,
    exec_csrw_done (r := .pStart) hfault rfl, exec_csrw_done (r := .pEnd) hfault rfl⟩

end Sys2Proof.Machine
end

section
/-! MM (spec/45_dispatch_control.md R210, R211) is the job command of the factor it picks, on the full ranges. -/

namespace Sys2Proof.Machine

/-- With FMT configured, MM is the job command whose factor is the one MM picks. -/
theorem exec_mm_eq {s : State} {i : Instr} (hfault : s.fault = false) (hfmt : s.fmt.extractLsb' 0 2 ≠ 0)
    (hjob : jobOf s.fullRanges i = some (s.dispatchFactor, s.fullRanges)) : exec .mm s = exec i s.fullRanges := by
  obtain ⟨f, hformat⟩ : ∃ f, s.fullRanges.format = some f :=
    Option.ne_none_iff_exists'.1 (mt (formatOf_eq_none s.fmt).1 hfmt)
  have hmm : jobOf s .mm = some (s.dispatchFactor, s.fullRanges) := rfl
  rw [exec_job hfault hmm hformat, exec_job (by exact hfault) hjob hformat]

/-- Settles O37, by the factor; an unconfigured FMT stops MM as it stops every job. -/
theorem mmDispatches : Obligations.MmDispatches := by
  intro s hfault
  refine ⟨(emptyJobDoesNothing s _ .mm _ hfault rfl).1, fun hfmt hsmall => ?_, fun hfmt hlarge => ?_⟩
  · have hfactor : s.dispatchFactor = 2 := if_pos hsmall
    exact exec_mm_eq (i := .mm2) hfault hfmt (by rw [hfactor]; rfl)
  · have hfactor : s.dispatchFactor = 4 := if_neg hlarge
    exact exec_mm_eq (i := .mm4) hfault hfmt (by rw [hfactor]; rfl)

end Sys2Proof.Machine
end

section
/-! A pattern as a sign and a magnitude field, its exponent and fraction bits read as one number, and the value a
field encodes (spec/46_numerics.md R230, R231, R233). -/

namespace Sys2Proof.Machine

variable {w : Width} {neg : Bool} {p : Nat}

/-- The exponent and fraction bits of a pattern as one number (R230). -/
def magnitudeField (w : Width) (x : BitVec w.bits) : Nat := x.toNat % 2 ^ (w.fracBits + w.expBits)

/-- The magnitude field of an infinity. -/
def infinityField (w : Width) : Nat := w.expOnes * 2 ^ w.fracBits

/-- The number of smallest steps that a magnitude field encodes (R231), past the largest exponent as below it. -/
def fieldSteps (w : Width) (p : Nat) : Nat :=
  if p / 2 ^ w.fracBits = 0 then p
  else (2 ^ w.fracBits + p % 2 ^ w.fracBits) * 2 ^ (p / 2 ^ w.fracBits - 1)

/-- The meaning of a sign and a magnitude field (R231): finite below infinity's field, a NaN above it. -/
def fieldValue (w : Width) (neg : Bool) (p : Nat) : FpValue :=
  if p < infinityField w then .fin neg (fieldSteps w p)
  else if p = infinityField w then .inf neg
  else .nan

/-! ### The fields of a pattern -/

theorem width_bits_eq_fields (w : Width) : w.bits = w.fracBits + w.expBits + 1 := by cases w <;> rfl

theorem two_pow_bits (w : Width) : 2 ^ w.bits = 2 * 2 ^ (w.fracBits + w.expBits) := by
  rw [width_bits_eq_fields, pow_succ, mul_comm]

theorem fracBits_pos (w : Width) : 0 < w.fracBits := by cases w <;> decide

theorem expOnes_gt_two (w : Width) : 2 < w.expOnes := by cases w <;> decide

theorem infinityField_add (w : Width) : infinityField w + 2 ^ w.fracBits = 2 ^ (w.fracBits + w.expBits) := by
  have hexp : w.expOnes + 1 = 2 ^ w.expBits := Nat.sub_add_cancel Nat.one_le_two_pow
  rw [infinityField, ← Nat.succ_mul, Nat.succ_eq_add_one, hexp, pow_add, mul_comm]

theorem infinityField_pos (w : Width) : 0 < infinityField w :=
  Nat.mul_pos (Nat.zero_lt_of_lt (expOnes_gt_two w)) (Nat.two_pow_pos _)

theorem infinityField_lt (w : Width) : infinityField w < 2 ^ (w.fracBits + w.expBits) := by
  have := infinityField_add w
  have := Nat.two_pow_pos w.fracBits
  omega

theorem magnitudeField_lt (x : BitVec w.bits) : magnitudeField w x < 2 ^ (w.fracBits + w.expBits) :=
  Nat.mod_lt _ (Nat.two_pow_pos _)

/-- A pattern means what its sign and its magnitude field mean. -/
theorem fpValue_eq_fieldValue (x : BitVec w.bits) : fpValue w x = fieldValue w x.msb (magnitudeField w x) := by
  have hfrac : x.toNat % 2 ^ w.fracBits = magnitudeField w x % 2 ^ w.fracBits :=
    (Nat.mod_mod_of_dvd _ (pow_dvd_pow 2 (Nat.le_add_right _ _))).symm
  have hexpo : x.toNat / 2 ^ w.fracBits % 2 ^ w.expBits = magnitudeField w x / 2 ^ w.fracBits := by
    rw [magnitudeField, pow_add, Nat.mod_mul_right_div_self]
  have hB := Nat.two_pow_pos w.fracBits
  have hsplit := Nat.div_add_mod' (magnitudeField w x) (2 ^ w.fracBits)
  have hrem := Nat.mod_lt (magnitudeField w x) hB
  have hlt := magnitudeField_lt x
  have hadd := infinityField_add w
  simp only [fpValue, fieldValue, hfrac, hexpo]
  generalize magnitudeField w x = p at *
  by_cases hones : p / 2 ^ w.fracBits = w.expOnes
  · have hp : p = infinityField w + p % 2 ^ w.fracBits := by rw [infinityField, ← hones]; omega
    have hnot : ¬ p < infinityField w := by omega
    rw [if_pos hones, if_neg hnot]
    exact if_congr (by omega) rfl rfl
  · have hp : p < infinityField w := by
      have hle : p / 2 ^ w.fracBits < w.expOnes + 1 := by
        rw [Nat.div_lt_iff_lt_mul hB, Nat.succ_mul]
        exact hadd ▸ hlt
      exact (Nat.div_lt_iff_lt_mul hB).1 (lt_of_le_of_ne (Nat.le_of_lt_succ hle) hones)
    rw [if_neg hones, if_pos hp, fieldSteps]
    split
    · next hzero => rw [Nat.mod_eq_of_lt (by rw [hzero] at hsplit; omega)]
    · rfl

theorem fpPattern_toNat (hp : p < 2 ^ (w.fracBits + w.expBits)) :
    (fpPattern w neg p).toNat = (if neg then 2 ^ (w.fracBits + w.expBits) else 0) + p := by
  have hbits : w.bits - 1 = w.fracBits + w.expBits := by rw [width_bits_eq_fields, Nat.add_sub_cancel]
  have hpow := two_pow_bits w
  rw [fpPattern, hbits, BitVec.toNat_ofNat, Nat.mod_eq_of_lt]
  split <;> omega

theorem msb_eq_decide_field (x : BitVec w.bits) : x.msb = decide (2 ^ (w.fracBits + w.expBits) ≤ x.toNat) := by
  have hbits : w.bits - 1 = w.fracBits + w.expBits := by rw [width_bits_eq_fields, Nat.add_sub_cancel]
  rw [BitVec.msb_eq_decide, hbits]

theorem fpPattern_msb (hp : p < 2 ^ (w.fracBits + w.expBits)) : (fpPattern w neg p).msb = neg := by
  rw [msb_eq_decide_field, fpPattern_toNat hp]
  cases neg
  · simpa using hp
  · simp

theorem magnitudeField_fpPattern (hp : p < 2 ^ (w.fracBits + w.expBits)) :
    magnitudeField w (fpPattern w neg p) = p := by
  rw [magnitudeField, fpPattern_toNat hp]
  cases neg
  · simpa using Nat.mod_eq_of_lt hp
  · simpa using Nat.mod_eq_of_lt hp

theorem fpValue_fpPattern (hp : p < 2 ^ (w.fracBits + w.expBits)) :
    fpValue w (fpPattern w neg p) = fieldValue w neg p := by
  rw [fpValue_eq_fieldValue, fpPattern_msb hp, magnitudeField_fpPattern hp]

/-- Sign and magnitude field make up the pattern. -/
theorem fpPattern_magnitudeField (x : BitVec w.bits) : fpPattern w x.msb (magnitudeField w x) = x := by
  apply BitVec.eq_of_toNat_eq
  have hx := x.isLt
  have hpow := two_pow_bits w
  rw [fpPattern_toNat (magnitudeField_lt x), msb_eq_decide_field, magnitudeField]
  by_cases hsign : 2 ^ (w.fracBits + w.expBits) ≤ x.toNat
  · rw [if_pos (by simpa using hsign), Nat.mod_eq_sub_mod hsign, Nat.mod_eq_of_lt (by omega)]
    omega
  · rw [if_neg (by simpa using hsign), Nat.mod_eq_of_lt (by omega), Nat.zero_add]

/-! ### Values of patterns -/

theorem fpValue_fpPattern_fin (hp : p < infinityField w) :
    fpValue w (fpPattern w neg p) = .fin neg (fieldSteps w p) := by
  rw [fpValue_fpPattern (hp.trans (infinityField_lt w)), fieldValue, if_pos hp]

theorem infinity_eq (w : Width) (neg : Bool) : infinity w neg = fpPattern w neg (infinityField w) := rfl

theorem fpValue_infinity (w : Width) (neg : Bool) : fpValue w (infinity w neg) = .inf neg := by
  rw [infinity_eq, fpValue_fpPattern (infinityField_lt w), fieldValue, if_neg (lt_irrefl _), if_pos rfl]

theorem fpValue_canonicalNaN (w : Width) : fpValue w (canonicalNaN w) = .nan := by
  have hhalf : 2 ^ (w.fracBits - 1) < 2 ^ w.fracBits :=
    Nat.pow_lt_pow_right (by decide) (Nat.sub_lt (fracBits_pos w) Nat.one_pos)
  have hpos := Nat.two_pow_pos (w.fracBits - 1)
  have hadd := infinityField_add w
  rw [canonicalNaN, ← infinityField, fpValue_fpPattern (by omega), fieldValue, if_neg (by omega), if_neg (by omega)]

/-- A finite value belongs to the pattern of its sign and of the field that encodes its steps. -/
theorem eq_fpPattern_of_fin {x : BitVec w.bits} {n : Nat} (h : fpValue w x = .fin neg n) :
    ∃ p, p < infinityField w ∧ fieldSteps w p = n ∧ x = fpPattern w neg p := by
  have hx := fpPattern_magnitudeField x
  rw [fpValue_eq_fieldValue, fieldValue] at h
  split at h
  · next hp =>
    obtain ⟨rfl, rfl⟩ := FpValue.fin.inj h
    exact ⟨_, hp, rfl, hx.symm⟩
  · split at h <;> cases h

theorem eq_infinity_of_inf {x : BitVec w.bits} (h : fpValue w x = .inf neg) : x = infinity w neg := by
  have hx := fpPattern_magnitudeField x
  rw [fpValue_eq_fieldValue, fieldValue] at h
  split at h
  · cases h
  · split at h
    · next hp =>
      obtain rfl := FpValue.inf.inj h
      rw [infinity_eq, ← hp, hx]
    · cases h

/-- A magnitude field up to infinity's is not one of a NaN. -/
theorem fpValue_fpPattern_ne_nan (hp : p ≤ infinityField w) : fpValue w (fpPattern w neg p) ≠ .nan := by
  rcases Nat.lt_or_eq_of_le hp with hlt | rfl
  · simp [fpValue_fpPattern_fin hlt]
  · simp [← infinity_eq, fpValue_infinity]

end Sys2Proof.Machine
end

section
/-! The values of a format lie in the order of their magnitude fields, and rounding picks one of the two fields
around a number (spec/46_numerics.md R231, R234). -/

namespace Sys2Proof.Machine

variable {w : Width} {s n p : Nat}

/-! ### Fields in order -/

/-- `k` spacings of `2^t` steps, `k` a full significand or `t = 0`, have the field `t · 2^m + k`, also for
`k = 2^(m+1)` (R231, R234). -/
theorem fieldSteps_encode {t k : Nat} (hlow : t = 0 ∨ 2 ^ w.fracBits ≤ k) (hhigh : k ≤ 2 * 2 ^ w.fracBits) :
    fieldSteps w (t * 2 ^ w.fracBits + k) = k * 2 ^ t := by
  have hB := Nat.two_pow_pos w.fracBits
  rw [fieldSteps]
  generalize 2 ^ w.fracBits = B at *
  rcases Nat.lt_or_ge k B with hsub | hnormal
  · obtain rfl : t = 0 := hlow.resolve_right (by omega)
    simp [Nat.div_eq_of_lt hsub]
  · obtain ⟨f, rfl⟩ := Nat.exists_eq_add_of_le hnormal
    have hfield : t * B + (B + f) = f + B * (t + 1) := by ring
    have hexp : f / B + (t + 1) ≠ 0 := Nat.succ_ne_zero _
    rw [hfield, Nat.add_mul_div_left _ _ hB, Nat.add_mul_mod_self_left, if_neg hexp]
    rcases Nat.lt_or_ge f B with hf | hf
    · rw [Nat.div_eq_of_lt hf, Nat.mod_eq_of_lt hf, Nat.zero_add, Nat.add_sub_cancel]
    · obtain rfl : f = B := by omega
      rw [Nat.div_self hB, Nat.mod_self, show 1 + (t + 1) - 1 = t + 1 by omega]
      ring

/-- Every field has the form of `fieldSteps_encode`, below a carry. -/
theorem exists_encode (w : Width) (p : Nat) :
    ∃ t k, p = t * 2 ^ w.fracBits + k ∧ (t = 0 ∨ 2 ^ w.fracBits ≤ k) ∧ k < 2 * 2 ^ w.fracBits := by
  have hrem := Nat.mod_lt p (Nat.two_pow_pos w.fracBits)
  have hsplit := Nat.div_add_mod' p (2 ^ w.fracBits)
  cases hexp : p / 2 ^ w.fracBits with
  | zero => exact ⟨0, p, by omega, .inl rfl, by rw [hexp] at hsplit; omega⟩
  | succ t =>
    rw [hexp, Nat.succ_mul] at hsplit
    exact ⟨t, 2 ^ w.fracBits + p % 2 ^ w.fracBits, by omega, .inr (by omega), by omega⟩

theorem fieldSteps_strictMono (w : Width) : StrictMono (fieldSteps w) := by
  refine strictMono_nat_of_lt_succ fun p => ?_
  obtain ⟨t, k, rfl, hlow, hhigh⟩ := exists_encode w p
  rw [Nat.add_assoc, fieldSteps_encode hlow hhigh.le, fieldSteps_encode (hlow.imp_right Nat.le_succ_of_le) hhigh]
  exact Nat.mul_lt_mul_of_pos_right k.lt_succ_self (Nat.two_pow_pos t)

theorem infinityField_eq_encode (w : Width) :
    infinityField w = (w.expOnes - 2) * 2 ^ w.fracBits + 2 * 2 ^ w.fracBits := by
  rw [← Nat.add_mul, Nat.sub_add_cancel (expOnes_gt_two w).le, infinityField]

/-- Past the largest finite value comes `2^(emax+1)`. -/
theorem fieldSteps_infinityField (w : Width) :
    fieldSteps w (infinityField w) = 2 * 2 ^ w.fracBits * 2 ^ (w.expOnes - 2) := by
  have hB := Nat.two_pow_pos w.fracBits
  rw [infinityField_eq_encode, fieldSteps_encode (.inr (by omega)) le_rfl]

/-- The largest finite value. -/
theorem fieldSteps_of_succ_eq_infinityField (h : p + 1 = infinityField w) :
    fieldSteps w p = (2 * 2 ^ w.fracBits - 1) * 2 ^ (w.expOnes - 2) := by
  have hB := Nat.two_pow_pos w.fracBits
  rw [infinityField_eq_encode] at h
  obtain rfl : p = (w.expOnes - 2) * 2 ^ w.fracBits + (2 * 2 ^ w.fracBits - 1) := by omega
  exact fieldSteps_encode (.inr (by omega)) (Nat.sub_le _ _)

theorem infinityField_even (w : Width) : 2 ∣ infinityField w :=
  Dvd.dvd.mul_left (dvd_pow_self 2 (fracBits_pos w).ne') _

/-! ### The field below a number -/

/-- A number lies below `2^(m+1)` of its spacings. -/
theorem lt_spacing (w : Width) (s n : Nat) : n < 2 * 2 ^ w.fracBits * 2 ^ spacing w s n := by
  rw [← pow_succ', ← pow_add]
  exact Nat.lt_log2_self.trans_le (Nat.pow_le_pow_right (by decide) (by rw [spacing]; omega))

/-- A number with a spacing above the smallest step is at least `2^m` of its spacings. -/
theorem spacing_le (w : Width) (s n : Nat) :
    spacing w s n - (s - w.scale) = 0 ∨ 2 ^ w.fracBits * 2 ^ spacing w s n ≤ n := by
  rcases Nat.eq_zero_or_pos (spacing w s n - (s - w.scale)) with hzero | hpos
  · exact .inl hzero
  · rw [spacing] at hpos
    have hn : n ≠ 0 := by
      rintro rfl
      simp at hpos
    rw [← pow_add]
    exact .inr ((Nat.pow_le_pow_right (by decide) (by rw [spacing]; omega)).trans (Nat.log2_self_le hn))

/-- `p` is the field of the largest value of the format, its exponents going on upwards, that is at most
`n · 2^(−s)`. -/
def IsFloor (w : Width) (s n p : Nat) : Prop :=
  fieldSteps w p * 2 ^ (s - w.scale) ≤ n ∧ n < fieldSteps w (p + 1) * 2 ^ (s - w.scale)

/-- `n · 2^(−s)` lies beyond half way from the value of `p` to the next one, or at half way and `p` is odd. -/
def RoundsUp (w : Width) (s n p : Nat) : Prop :=
  (fieldSteps w p + fieldSteps w (p + 1)) * 2 ^ (s - w.scale) < 2 * n ∨
    ((fieldSteps w p + fieldSteps w (p + 1)) * 2 ^ (s - w.scale) = 2 * n ∧ p % 2 = 1)

/-- Rounding starts from the floor and goes up as `RoundsUp` says, at most to infinity (R234). -/
theorem roundMagnitude_spec (w : Width) (s n : Nat) :
    ∃ p, IsFloor w s n p ∧
      (RoundsUp w s n p ∧ roundMagnitude w s n = min (p + 1) (infinityField w) ∨
        ¬ RoundsUp w s n p ∧ roundMagnitude w s n = min p (infinityField w)) := by
  have hhigh := lt_spacing w s n
  have hlow := spacing_le w s n
  obtain ⟨t, ht⟩ : ∃ t, spacing w s n = t + (s - w.scale) := Nat.exists_eq_add_of_le' (le_max_right _ _)
  have hround : roundMagnitude w s n = min (t * 2 ^ w.fracBits + nearestEven n (spacing w s n)) (infinityField w) := by
    rw [roundMagnitude, infinityField, show t = spacing w s n - (s - w.scale) by omega]
  rw [ht, Nat.add_sub_cancel] at hlow
  rw [ht] at hround hhigh
  have hpow : 2 ^ (t + (s - w.scale)) = 2 ^ t * 2 ^ (s - w.scale) := pow_add _ _ _
  have hu := Nat.two_pow_pos (t + (s - w.scale))
  rw [nearestEven] at hround
  rw [← Nat.le_div_iff_mul_le hu] at hlow
  rw [← Nat.div_lt_iff_lt_mul hu] at hhigh
  have hsplit := Nat.div_add_mod' n (2 ^ (t + (s - w.scale)))
  have hrem := Nat.mod_lt n hu
  generalize 2 ^ (t + (s - w.scale)) = u at *
  generalize n / u = q at *
  generalize n % u = r at *
  have hfloor := fieldSteps_encode hlow hhigh.le
  have hnext := fieldSteps_encode (hlow.imp_right Nat.le_succ_of_le) hhigh
  have heven : 2 ∣ t * 2 ^ w.fracBits := Dvd.dvd.mul_left (dvd_pow_self 2 (fracBits_pos w).ne') _
  have hup : RoundsUp w s n (t * 2 ^ w.fracBits + q) ↔ u < 2 * r ∨ 2 * r = u ∧ q % 2 = 1 := by
    rw [RoundsUp, Nat.add_assoc, hfloor, hnext, ← Nat.add_mul, mul_assoc, ← hpow, Nat.add_mul,
      Nat.succ_mul]
    omega
  refine ⟨t * 2 ^ w.fracBits + q, ⟨?_, ?_⟩, ?_⟩
  · rw [hfloor, mul_assoc, ← hpow]
    omega
  · rw [Nat.add_assoc, hnext, mul_assoc, ← hpow, Nat.succ_mul]
    omega
  · rw [hround, hup]
    split
    · next h => exact .inl ⟨h, rfl⟩
    · next h => exact .inr ⟨h, rfl⟩

theorem roundMagnitude_le (w : Width) (s n : Nat) : roundMagnitude w s n ≤ infinityField w := min_le_right _ _

/-- Only one field is the floor of a value of the format. -/
theorem IsFloor.eq_of_steps {q : Nat} (h : IsFloor w s (fieldSteps w q * 2 ^ (s - w.scale)) p) : p = q := by
  obtain ⟨hle, hlt⟩ := h
  have hpos := Nat.two_pow_pos (s - w.scale)
  have hpq := (fieldSteps_strictMono w).le_iff_le.1 (Nat.le_of_mul_le_mul_right hle hpos)
  have hqp := (fieldSteps_strictMono w).lt_iff_lt.1 (Nat.lt_of_mul_lt_mul_right hlt)
  omega

/-- A value of the format is rounded to itself. -/
theorem roundMagnitude_exact (s : Nat) (hp : p ≤ infinityField w) :
    roundMagnitude w s (fieldSteps w p * 2 ^ (s - w.scale)) = p := by
  obtain ⟨q, hfloor, hround⟩ := roundMagnitude_spec w s (fieldSteps w p * 2 ^ (s - w.scale))
  obtain rfl := hfloor.eq_of_steps
  obtain ⟨-, hlt⟩ := hfloor
  rcases hround with ⟨hup, -⟩ | ⟨-, hround⟩
  · rw [RoundsUp, Nat.add_mul] at hup
    omega
  · rw [hround, min_eq_left hp]

/-- A significand of at most `m + 1` bits at any exponent has a field. -/
theorem exists_fieldSteps_eq {k : Nat} (t : Nat) (hk : k < 2 * 2 ^ w.fracBits) :
    ∃ p, fieldSteps w p = k * 2 ^ t := by
  induction t generalizing k with
  | zero => exact ⟨0 * 2 ^ w.fracBits + k, fieldSteps_encode (.inl rfl) hk.le⟩
  | succ t ih =>
    rcases Nat.lt_or_ge k (2 ^ w.fracBits) with hsub | hnormal
    · obtain ⟨p, hp⟩ := ih (k := 2 * k) (by omega)
      exact ⟨p, by rw [hp, pow_succ']; ring⟩
    · exact ⟨_, fieldSteps_encode (.inr hnormal) hk.le⟩

end Sys2Proof.Machine
end

section
/-! Rounding to the nearest value, the even one at half way, and to infinity from half way above the largest value on
(spec/46_numerics.md R234). -/

namespace Sys2Proof.Machine

variable {w : Width} {s n p q : Nat}

/-! ### Overflow -/

/-- Half way from the largest finite value to `2^(emax+1)`, doubled. -/
theorem overflow_midpoint (h : p + 1 = infinityField w) :
    fieldSteps w p + fieldSteps w (p + 1) = (2 ^ (w.fracBits + 2) - 1) * 2 ^ (w.expOnes - 2) := by
  have hB := Nat.two_pow_pos w.fracBits
  rw [fieldSteps_of_succ_eq_infinityField h, h, fieldSteps_infinityField, ← Nat.add_mul, pow_add]
  congr 1
  omega

/-- The result is infinity exactly from half way above the largest finite value on. -/
theorem roundMagnitude_eq_infinityField_iff (w : Width) (s n : Nat) :
    roundMagnitude w s n = infinityField w ↔
      (2 ^ (w.fracBits + 2) - 1) * 2 ^ (w.expOnes - 2) * 2 ^ (s - w.scale) ≤ 2 * n := by
  obtain ⟨p, ⟨hle, hlt⟩, hround⟩ := roundMagnitude_spec w s n
  obtain ⟨q, hq⟩ : ∃ q, q + 1 = infinityField w := ⟨_, Nat.sub_add_cancel (infinityField_pos w)⟩
  have heven := infinityField_even w
  have hmono {a b : Nat} (hab : a ≤ b) : fieldSteps w a * 2 ^ (s - w.scale) ≤ fieldSteps w b * 2 ^ (s - w.scale) :=
    Nat.mul_le_mul_right _ ((fieldSteps_strictMono w).monotone hab)
  have hstep := hmono (Nat.le_add_right q 1)
  rw [← overflow_midpoint hq, Nat.add_mul]
  rcases lt_trichotomy p q with hlow | rfl | hhigh
  · have hnext := hmono (show p + 1 ≤ q from hlow)
    rcases hround with ⟨-, hround⟩ | ⟨-, hround⟩ <;> omega
  · rw [RoundsUp, Nat.add_mul] at hround
    rcases hround with ⟨hup, hround⟩ | ⟨hdown, hround⟩ <;> omega
  · have hfloor := hmono (show q + 1 ≤ p from hhigh)
    rcases hround with ⟨-, hround⟩ | ⟨-, hround⟩ <;> omega

/-! ### Distance -/

/-- How far the value of a field lies from `n · 2^(−s)`, in units of `2^(−s)`. -/
def fieldDistance (w : Width) (s n p : Nat) : Nat := ((fieldSteps w p : Int) * 2 ^ (s - w.scale) - n).natAbs

theorem scaled_lt_scaled (s : Nat) (h : p < q) :
    fieldSteps w p * 2 ^ (s - w.scale) < fieldSteps w q * 2 ^ (s - w.scale) :=
  Nat.mul_lt_mul_of_pos_right (fieldSteps_strictMono w h) (Nat.two_pow_pos _)

theorem fieldDistance_eq (w : Width) (s n p : Nat) :
    fieldDistance w s n p = (((fieldSteps w p * 2 ^ (s - w.scale) : Nat) : Int) - n).natAbs := by
  rw [fieldDistance]
  push_cast
  rfl

theorem fieldDistance_of_le (h : fieldSteps w p * 2 ^ (s - w.scale) ≤ n) :
    fieldDistance w s n p = n - fieldSteps w p * 2 ^ (s - w.scale) := by
  rw [fieldDistance_eq]
  omega

theorem fieldDistance_of_ge (h : n ≤ fieldSteps w p * 2 ^ (s - w.scale)) :
    fieldDistance w s n p = fieldSteps w p * 2 ^ (s - w.scale) - n := by
  rw [fieldDistance_eq]
  omega

/-- Among the fields up to the floor the floor is the nearest. -/
theorem IsFloor.fieldDistance_lt_of_lt (h : IsFloor w s n p) (hq : q < p) :
    fieldDistance w s n p < fieldDistance w s n q := by
  obtain ⟨hle, -⟩ := h
  have hlt := scaled_lt_scaled (w := w) s hq
  rw [fieldDistance_of_le hle, fieldDistance_of_le (hlt.le.trans hle)]
  omega

/-- Among the fields above the floor the next one is the nearest. -/
theorem IsFloor.fieldDistance_lt_of_gt (h : IsFloor w s n p) (hq : p + 1 < q) :
    fieldDistance w s n (p + 1) < fieldDistance w s n q := by
  obtain ⟨-, hle⟩ := h
  have hlt := scaled_lt_scaled (w := w) s hq
  rw [fieldDistance_of_ge hle.le, fieldDistance_of_ge (hle.trans hlt).le]
  omega

/-- Rounding goes up when the next value is nearer, or as near and the floor odd. -/
theorem IsFloor.roundsUp_iff (h : IsFloor w s n p) :
    RoundsUp w s n p ↔ fieldDistance w s n (p + 1) < fieldDistance w s n p ∨
      (fieldDistance w s n (p + 1) = fieldDistance w s n p ∧ p % 2 = 1) := by
  obtain ⟨hle, hlt⟩ := h
  rw [fieldDistance_of_le hle, fieldDistance_of_ge hlt.le, RoundsUp, Nat.add_mul]
  omega

/-- A finite result is a nearest value, and where another one is as near, the even one. -/
theorem roundMagnitude_nearest (hfinite : roundMagnitude w s n < infinityField w) (q : Nat) :
    fieldDistance w s n (roundMagnitude w s n) ≤ fieldDistance w s n q ∧
      (fieldDistance w s n (roundMagnitude w s n) = fieldDistance w s n q →
        q = roundMagnitude w s n ∨ roundMagnitude w s n % 2 = 0) := by
  obtain ⟨p, hfloor, hround⟩ := roundMagnitude_spec w s n
  have hbelow := hfloor.fieldDistance_lt_of_lt (q := q)
  have habove := hfloor.fieldDistance_lt_of_gt (q := q)
  have hcases : q < p ∨ q = p ∨ q = p + 1 ∨ p + 1 < q := by omega
  rw [hfloor.roundsUp_iff] at hround
  rcases hround with ⟨hup, hround⟩ | ⟨hdown, hround⟩
  · obtain hresult : roundMagnitude w s n = p + 1 := by omega
    rw [hresult]
    rcases hcases with hq | rfl | rfl | hq <;> omega
  · obtain hresult : roundMagnitude w s n = p := by omega
    rw [hresult]
    rcases hcases with hq | rfl | rfl | hq <;> omega

/-! ### The last bit of a pattern -/

theorem fpPattern_getLsbD_zero {neg : Bool} (hp : p < 2 ^ (w.fracBits + w.expBits)) (heven : p % 2 = 0) :
    (fpPattern w neg p).getLsbD 0 = false := by
  have hsign : 2 ∣ 2 ^ (w.fracBits + w.expBits) := dvd_pow_self 2 (by have := fracBits_pos w; omega)
  rw [BitVec.getLsbD, fpPattern_toNat hp, Nat.testBit_zero]
  split <;> simp <;> omega

/-- Settles O54: overflow is at its threshold, and below it the two fields around the number are the candidates. -/
theorem roundsToNearestEven : Obligations.RoundsToNearestEven := by
  intro w s n neg _
  have hiff := roundMagnitude_eq_infinityField_iff w s n
  refine ⟨fun h => by rw [hiff.2 h, infinity_eq], fun h => ?_⟩
  have hfinite : roundMagnitude w s n < infinityField w :=
    lt_of_le_of_ne (roundMagnitude_le w s n) (mt hiff.1 h.not_ge)
  refine ⟨_, fpValue_fpPattern_fin hfinite, fun x neg' m' hx => ?_⟩
  obtain ⟨q, -, rfl, rfl⟩ := eq_fpPattern_of_fin hx
  obtain ⟨hle, htie⟩ := roundMagnitude_nearest hfinite q
  exact ⟨hle, fun heq => (htie heq).imp (congrArg _)
    (fpPattern_getLsbD_zero (hfinite.trans (infinityField_lt w)))⟩

end Sys2Proof.Machine
end

section
/-! The operations case by case (spec/46_numerics.md R236 to R241): the sum that is rounded, the zeros, the NaNs and the
infinities. -/

namespace Sys2Proof.Machine

variable {w : Width} {a b c : BitVec w.bits} {negate sa sb sc : Bool} {na nb nc : Nat}

/-! ### Signed numbers and their rounded sum -/

theorem productSign_fma (sa sb : Bool) : productSign false sa sb = (sa != sb) := by simp [productSign]

theorem productSign_fnma (sa sb : Bool) : productSign true sa sb = (sa == sb) := by simp [productSign, bne]

theorem natAbs_signed (neg : Bool) (n : Nat) : (signed neg n).natAbs = n := by cases neg <;> simp [signed]

theorem signed_neg_iff {n : Nat} (hn : n ≠ 0) (neg : Bool) : signed neg n < 0 ↔ neg = true := by
  cases neg
  · simp [signed]
  · simpa [signed] using Nat.pos_of_ne_zero hn

theorem signed_eq_zero {n : Nat} (neg : Bool) : signed neg n = 0 ↔ n = 0 := by cases neg <;> simp [signed]

variable {s n1 n2 : Nat} {neg1 neg2 : Bool}

theorem roundSum_nonzero {x : Int} (hx : signed neg1 n1 + signed neg2 n2 = x) (hne : x ≠ 0) :
    roundSum w s neg1 n1 neg2 n2 = fpPattern w (decide (x < 0)) (roundMagnitude w s x.natAbs) := by
  subst hx
  exact if_neg hne

/-- The sign of an exact zero sum (R238). -/
theorem roundSum_zero (h : signed neg1 n1 + signed neg2 n2 = 0) :
    roundSum w s neg1 n1 neg2 n2 =
      fpPattern w (decide (n1 = 0 ∧ n2 = 0 ∧ neg1 = true ∧ neg2 = true)) 0 := by
  rw [roundSum, if_pos h]
  congr 1
  simp [Bool.and_assoc]

theorem roundSum_comm (w : Width) (s : Nat) (neg1 : Bool) (n1 : Nat) (neg2 : Bool) (n2 : Nat) :
    roundSum w s neg1 n1 neg2 n2 = roundSum w s neg2 n2 neg1 n1 := by
  have hzero : (n1 = 0 && n2 = 0 && neg1 && neg2) = (n2 = 0 && n1 = 0 && neg2 && neg1) := by
    cases neg1 <;> cases neg2 <;> simp [Bool.and_comm]
  simp only [roundSum, Int.add_comm (signed neg1 n1), hzero]

/-- A sum that is a value of the format, other than zero, is kept. -/
theorem roundSum_exact {x : BitVec w.bits} {sx : Bool} {nx : Nat} (hx : fpValue w x = .fin sx nx) (hne : nx ≠ 0)
    (hsum : signed neg1 n1 + signed neg2 n2 = signed sx (nx * 2 ^ (s - w.scale))) :
    roundSum w s neg1 n1 neg2 n2 = x := by
  obtain ⟨p, hp, rfl, rfl⟩ := eq_fpPattern_of_fin hx
  have hscaled : fieldSteps w p * 2 ^ (s - w.scale) ≠ 0 := Nat.mul_ne_zero hne (Nat.two_pow_pos _).ne'
  have hsign : decide (signed sx (fieldSteps w p * 2 ^ (s - w.scale)) < 0) = sx := by
    simp [signed_neg_iff hscaled]
  rw [roundSum_nonzero hsum (mt (signed_eq_zero sx).1 hscaled), natAbs_signed, roundMagnitude_exact s hp.le, hsign]

/-! ### Finite operands -/

theorem fusedMultiplyAdd_fin (ha : fpValue w a = .fin sa na) (hb : fpValue w b = .fin sb nb)
    (hc : fpValue w c = .fin sc nc) : fusedMultiplyAdd w negate a b c =
      roundSum w (2 * w.scale) (productSign negate sa sb) (na * nb) sc (nc * 2 ^ w.scale) := by
  simp only [fusedMultiplyAdd, ha, hb, hc]

theorem fma_fin (ha : fpValue w a = .fin sa na) (hb : fpValue w b = .fin sb nb) (hc : fpValue w c = .fin sc nc) :
    fma w a b c = roundSum w (2 * w.scale) (sa != sb) (na * nb) sc (nc * 2 ^ w.scale) := by
  rw [fma, fusedMultiplyAdd_fin ha hb hc, productSign_fma]

theorem fnma_fin (ha : fpValue w a = .fin sa na) (hb : fpValue w b = .fin sb nb) (hc : fpValue w c = .fin sc nc) :
    fnma w a b c = roundSum w (2 * w.scale) (sa == sb) (na * nb) sc (nc * 2 ^ w.scale) := by
  rw [fnma, fusedMultiplyAdd_fin ha hb hc, productSign_fnma]

theorem fadd_fin (ha : fpValue w a = .fin sa na) (hb : fpValue w b = .fin sb nb) :
    fadd w a b = roundSum w w.scale sa na sb nb := by
  simp only [fadd, ha, hb]

variable {ww wn : Width}

theorem narrow_fin {x : BitVec ww.bits} {neg : Bool} {n : Nat} (h : fpValue ww x = .fin neg n) :
    narrow ww wn x = fpPattern wn neg (roundMagnitude wn ww.scale n) := by
  simp only [narrow, h]

theorem promote_fin {x : BitVec wn.bits} {neg : Bool} {n : Nat} (h : fpValue wn x = .fin neg n) :
    promote wn ww x = fpPattern ww neg (roundMagnitude ww ww.scale (n * 2 ^ (ww.scale - wn.scale))) := by
  simp only [promote, h]

/-! ### NaNs and infinities -/

theorem FpValue.isInf_iff (v : FpValue) : v.isInf = true ↔ ∃ s, v = .inf s := by cases v <;> simp [FpValue.isInf]

theorem FpValue.isFinite_iff (v : FpValue) : v.isFinite = true ↔ ∃ s n, v = .fin s n := by
  cases v <;> simp [FpValue.isFinite]

theorem FpValue.isZero_iff (v : FpValue) : v.isZero = true ↔ ∃ s, v = .fin s 0 := by
  cases v <;> simp [FpValue.isZero]

/-- R236 step 1. -/
theorem fusedMultiplyAdd_of_nan (h : fpValue w a = .nan ∨ fpValue w b = .nan ∨ fpValue w c = .nan) :
    fusedMultiplyAdd w negate a b c = canonicalNaN w := by
  rw [fusedMultiplyAdd]
  rcases h with ha | hb | hc
  · simp only [ha]
  · simp only [hb]
    cases fpValue w a <;> rfl
  · simp only [hc]
    cases fpValue w a <;> cases fpValue w b <;> rfl

/-- Infinity times zero (R236 step 2). -/
theorem fusedMultiplyAdd_inf_zero (ha : (fpValue w a).isInf = true) (hb : (fpValue w b).isZero = true) :
    fusedMultiplyAdd w negate a b c = canonicalNaN w := by
  obtain ⟨sa, ha⟩ := (FpValue.isInf_iff _).1 ha
  obtain ⟨sb, hb⟩ := (FpValue.isZero_iff _).1 hb
  simp only [fusedMultiplyAdd, ha, hb]
  cases fpValue w c <;> rfl

/-- Zero times infinity (R236 step 2). -/
theorem fusedMultiplyAdd_zero_inf (ha : (fpValue w a).isZero = true) (hb : (fpValue w b).isInf = true) :
    fusedMultiplyAdd w negate a b c = canonicalNaN w := by
  obtain ⟨sa, ha⟩ := (FpValue.isZero_iff _).1 ha
  obtain ⟨sb, hb⟩ := (FpValue.isInf_iff _).1 hb
  simp only [fusedMultiplyAdd, ha, hb]
  cases fpValue w c <;> rfl

/-- An infinite product (R236 step 3). -/
theorem fusedMultiplyAdd_inf_product (ha : (fpValue w a).hasSign sa) (hb : (fpValue w b).hasSign sb)
    (hinf : (fpValue w a).isInf = true ∨ (fpValue w b).isInf = true) :
    fusedMultiplyAdd w negate a b c = addToInfinity w (productSign negate sa sb) (fpValue w c) := by
  rw [fusedMultiplyAdd]
  rcases ha with ha | ⟨na, hna, ha⟩ <;> rcases hb with hb | ⟨nb, hnb, hb⟩ <;> simp only [ha, hb] at hinf ⊢
  · cases fpValue w c <;> rfl
  · cases fpValue w c with
    | nan => rfl
    | inf sc => exact if_neg hnb
    | fin sc nc => exact if_neg hnb
  · cases fpValue w c with
    | nan => rfl
    | inf sc => exact if_neg hna
    | fin sc nc => exact if_neg hna
  · simp [FpValue.isInf] at hinf

/-- A finite product and an infinity (R236 step 4). -/
theorem fusedMultiplyAdd_inf_addend (ha : (fpValue w a).isFinite = true) (hb : (fpValue w b).isFinite = true)
    (hc : (fpValue w c).isInf = true) : fusedMultiplyAdd w negate a b c = c := by
  obtain ⟨sa, na, ha⟩ := (FpValue.isFinite_iff _).1 ha
  obtain ⟨sb, nb, hb⟩ := (FpValue.isFinite_iff _).1 hb
  obtain ⟨sc, hc⟩ := (FpValue.isInf_iff _).1 hc
  simp only [fusedMultiplyAdd, ha, hb, hc]
  exact (eq_infinity_of_inf hc).symm

theorem fadd_of_nan (h : fpValue w a = .nan ∨ fpValue w b = .nan) : fadd w a b = canonicalNaN w := by
  rw [fadd]
  rcases h with ha | hb
  · simp only [ha]
  · simp only [hb]
    cases fpValue w a <;> rfl

theorem fadd_inf_inf (ha : fpValue w a = .inf sa) (hb : fpValue w b = .inf sb) :
    fadd w a b = if sa = sb then a else canonicalNaN w := by
  simp only [fadd, ha, hb]
  rw [← eq_infinity_of_inf ha]

theorem fadd_inf_fin (ha : (fpValue w a).isInf = true) (hb : (fpValue w b).isFinite = true) : fadd w a b = a := by
  obtain ⟨sa, ha⟩ := (FpValue.isInf_iff _).1 ha
  obtain ⟨sb, nb, hb⟩ := (FpValue.isFinite_iff _).1 hb
  simp only [fadd, ha, hb]
  exact (eq_infinity_of_inf ha).symm

theorem fadd_fin_inf (ha : (fpValue w a).isFinite = true) (hb : (fpValue w b).isInf = true) : fadd w a b = b := by
  obtain ⟨sa, na, ha⟩ := (FpValue.isFinite_iff _).1 ha
  obtain ⟨sb, hb⟩ := (FpValue.isInf_iff _).1 hb
  simp only [fadd, ha, hb]
  exact (eq_infinity_of_inf hb).symm

theorem narrow_of_nan {x : BitVec ww.bits} (h : fpValue ww x = .nan) : narrow ww wn x = canonicalNaN wn := by
  simp only [narrow, h]

theorem narrow_inf {x : BitVec ww.bits} {neg : Bool} (h : fpValue ww x = .inf neg) :
    narrow ww wn x = infinity wn neg := by
  simp only [narrow, h]

theorem promote_of_nan {x : BitVec wn.bits} (h : fpValue wn x = .nan) : promote wn ww x = canonicalNaN ww := by
  simp only [promote, h]

theorem promote_inf {x : BitVec wn.bits} {neg : Bool} (h : fpValue wn x = .inf neg) :
    promote wn ww x = infinity ww neg := by
  simp only [promote, h]

end Sys2Proof.Machine
end

section
/-! One rounding of an exact result, and the sign of an exact zero (spec/46_numerics.md R236 to R239, R241). -/

namespace Sys2Proof.Machine

/-- Settles O55: on finite operands each operation is one rounded sum, and narrowing one rounding. -/
theorem fusedExactResult : Obligations.FusedExactResult := by
  have hscale (w : Width) : 2 * w.scale - w.scale = w.scale := by omega
  refine ⟨fun w a b c x sa sb sc sx na nb nc nx ha hb hc hx hne => ?_,
    fun w a b c sa sb sc na nb nc x ha hb hc hne => ⟨fun hsum => ?_, fun hsum => ?_, fun hsum => ?_⟩,
    fun w _ a neg n ha => narrow_fin ha⟩
  · rw [fma_fin ha hb hc, fnma_fin ha hb hc]
    exact ⟨fun hsum => roundSum_exact hx hne (by rw [hsum, hscale]),
      fun hsum => roundSum_exact hx hne (by rw [hsum, hscale])⟩
  · rw [fma_fin ha hb hc, roundSum_nonzero hsum hne]
  · rw [fnma_fin ha hb hc, roundSum_nonzero hsum hne]
  · rw [fadd_fin ha hc, roundSum_nonzero hsum hne]

/-- Settles O60: the zero of the rounded sum, whose second addend is a zero when `c` is. -/
theorem exactZeroSign : Obligations.ExactZeroSign := by
  intro w a b c sa sb sc na nb nc ha hb hc
  have hzero : nc * 2 ^ w.scale = 0 ↔ nc = 0 := by simp
  refine ⟨fun hsum => ?_, fun hsum => ?_, fun hsum => ?_⟩
  · rw [fadd_fin ha hc, roundSum_zero hsum]
  · simp only [fma_fin ha hb hc, roundSum_zero hsum, hzero]
  · simp only [fnma_fin ha hb hc, roundSum_zero hsum, hzero]

/-- Settles O56, by the kinds of the operands. -/
theorem faddCommutes : Obligations.FaddCommutes := by
  intro w a b
  cases ha : fpValue w a with
  | nan => rw [fadd_of_nan (.inl ha), fadd_of_nan (.inr ha)]
  | inf sa =>
    cases hb : fpValue w b with
    | nan => rw [fadd_of_nan (.inr hb), fadd_of_nan (.inl hb)]
    | inf sb =>
      rw [fadd_inf_inf ha hb, fadd_inf_inf hb ha]
      by_cases hs : sa = sb
      · subst hs
        rw [if_pos rfl, if_pos rfl, eq_infinity_of_inf ha, eq_infinity_of_inf hb]
      · rw [if_neg hs, if_neg (Ne.symm hs)]
    | fin sb nb =>
      rw [fadd_inf_fin (by rw [ha]; rfl) (by rw [hb]; rfl), fadd_fin_inf (by rw [hb]; rfl) (by rw [ha]; rfl)]
  | fin sa na =>
    cases hb : fpValue w b with
    | nan => rw [fadd_of_nan (.inr hb), fadd_of_nan (.inl hb)]
    | inf sb =>
      rw [fadd_fin_inf (by rw [ha]; rfl) (by rw [hb]; rfl), fadd_inf_fin (by rw [hb]; rfl) (by rw [ha]; rfl)]
    | fin sb nb => rw [fadd_fin ha hb, fadd_fin hb ha, roundSum_comm]

end Sys2Proof.Machine
end

section
/-! The sign bit of a factor is the sign of the product (spec/46_numerics.md R237). -/

namespace Sys2Proof.Machine

variable {w : Width}

/-- The value of the other sign; a NaN has none. -/
def FpValue.negated : FpValue → FpValue
  | .nan => .nan
  | .inf neg => .inf (!neg)
  | .fin neg n => .fin (!neg) n

theorem fieldValue_not (w : Width) (neg : Bool) (p : Nat) :
    fieldValue w (!neg) p = (fieldValue w neg p).negated := by
  rw [fieldValue, fieldValue]
  split
  · rfl
  · split <;> rfl

/-- The pattern with the sign bit alone is the negative zero. -/
theorem signBit_eq (w : Width) : BitVec.ofNat w.bits (2 ^ (w.bits - 1)) = fpPattern w true 0 := rfl

theorem magnitudeField_xor (x y : BitVec w.bits) :
    magnitudeField w (x ^^^ y) = magnitudeField w x ^^^ magnitudeField w y := by
  rw [magnitudeField, BitVec.toNat_xor, Nat.xor_mod_two_pow]
  rfl

/-- Flipping the sign bit negates the value. -/
theorem fpValue_flip_sign (x : BitVec w.bits) :
    fpValue w (x ^^^ BitVec.ofNat w.bits (2 ^ (w.bits - 1))) = (fpValue w x).negated := by
  have hzero := Nat.two_pow_pos (w.fracBits + w.expBits)
  rw [signBit_eq, fpValue_eq_fieldValue, BitVec.msb_xor, magnitudeField_xor, fpPattern_msb hzero,
    magnitudeField_fpPattern hzero, Nat.xor_zero, Bool.xor_true, fieldValue_not, ← fpValue_eq_fieldValue]

theorem productSign_negate (sa sb : Bool) : productSign true sa sb = productSign false (!sa) sb := by
  cases sa <;> cases sb <;> rfl

/-- The negate-subtract form is the fused form on the first factor negated: that factor's sign is only used in the
sign of the product. -/
theorem fnma_eq_fma_flip_sign (a b c : BitVec w.bits) :
    fnma w a b c = fma w (a ^^^ BitVec.ofNat w.bits (2 ^ (w.bits - 1))) b c := by
  rw [fnma, fma, fusedMultiplyAdd, fusedMultiplyAdd, fpValue_flip_sign]
  cases fpValue w a with
  | nan => rfl
  | inf sa => cases fpValue w b <;> cases fpValue w c <;> simp only [FpValue.negated, productSign_negate]
  | fin sa na => cases fpValue w b <;> cases fpValue w c <;> simp only [FpValue.negated, productSign_negate]

/-- Settles O57: flipping the sign bit negates the factor, and with it the sign of the product. -/
theorem fnmaFlipsProductSign : Obligations.FnmaFlipsProductSign := fun _ a b c =>
  ⟨fun _ => fnma_eq_fma_flip_sign a b c,
    fun ha => ⟨fusedMultiplyAdd_of_nan (.inl ha), fusedMultiplyAdd_of_nan (.inl ha)⟩⟩

end Sys2Proof.Machine
end

section
/-! Promotion is exact: every finite value of a format is a finite value of the wider one (spec/46_numerics.md R240). -/

namespace Sys2Proof.Machine

/-- The significand and the exponents of the wider format have room for those of the narrow one. -/
theorem wider_has_room (w : Width) : w.fracBits ≤ w.wider.fracBits ∧
    w.fracBits + 1 + (w.expOnes - 2) + (w.wider.scale - w.scale) ≤ w.wider.fracBits + 1 + (w.wider.expOnes - 2) := by
  cases w <;> decide

/-- A finite value is one of the wider format, counted there in smaller steps. -/
theorem exists_wider_field {w : Width} {p : Nat} (hp : p < infinityField w) :
    ∃ q, q < infinityField w.wider ∧
      fieldSteps w.wider q = fieldSteps w p * 2 ^ (w.wider.scale - w.scale) := by
  obtain ⟨hfrac, hroom⟩ := wider_has_room w
  have hsignificand := Nat.pow_le_pow_right (show 0 < 2 by decide) hfrac
  obtain ⟨t, k, hsplit, hlow, hhigh⟩ := exists_encode w p
  obtain ⟨q, hq⟩ := exists_fieldSteps_eq (w := w.wider) (k := k) (t + (w.wider.scale - w.scale)) (by omega)
  have heq : fieldSteps w.wider q = fieldSteps w p * 2 ^ (w.wider.scale - w.scale) := by
    rw [hq, hsplit, fieldSteps_encode hlow hhigh.le, pow_add, mul_assoc]
  refine ⟨q, (fieldSteps_strictMono w.wider).lt_iff_lt.1 ?_, heq⟩
  calc fieldSteps w.wider q
      < fieldSteps w (infinityField w) * 2 ^ (w.wider.scale - w.scale) :=
        heq ▸ Nat.mul_lt_mul_of_pos_right (fieldSteps_strictMono w hp) (Nat.two_pow_pos _)
    _ = 2 ^ (w.fracBits + 1 + (w.expOnes - 2) + (w.wider.scale - w.scale)) := by
        rw [fieldSteps_infinityField, ← pow_succ', ← pow_add, ← pow_add]
    _ ≤ 2 ^ (w.wider.fracBits + 1 + (w.wider.expOnes - 2)) := Nat.pow_le_pow_right (by decide) hroom
    _ = fieldSteps w.wider (infinityField w.wider) := by
        rw [fieldSteps_infinityField, ← pow_succ', ← pow_add]

theorem fpValue_promote_fin {w : Width} {a : BitVec w.bits} {neg : Bool} {n : Nat} (ha : fpValue w a = .fin neg n) :
    fpValue w.wider (promote w w.wider a) = .fin neg (n * 2 ^ (w.wider.scale - w.scale)) := by
  obtain ⟨p, hp, rfl, -⟩ := eq_fpPattern_of_fin ha
  obtain ⟨q, hq, hsteps⟩ := exists_wider_field hp
  have hexact := roundMagnitude_exact (w := w.wider) w.wider.scale hq.le
  rw [Nat.sub_self, pow_zero, mul_one] at hexact
  rw [promote_fin ha, ← hsteps, hexact, fpValue_fpPattern_fin hq]

theorem narrow_promote {w : Width} {a : BitVec w.bits} (ha : fpValue w a ≠ .nan) :
    narrow w.wider w (promote w w.wider a) = a := by
  cases hvalue : fpValue w a with
  | nan => exact absurd hvalue ha
  | inf neg => rw [promote_inf hvalue, narrow_inf (fpValue_infinity _ neg), eq_infinity_of_inf hvalue]
  | fin neg n =>
    obtain ⟨p, hp, rfl, hpattern⟩ := eq_fpPattern_of_fin hvalue
    rw [narrow_fin (fpValue_promote_fin hvalue), roundMagnitude_exact _ hp.le, hpattern]

/-- Settles O58: a promoted value is represented exactly, and so narrowing rounds it to itself. -/
theorem promoteIsExact : Obligations.PromoteIsExact := fun _ _ _ =>
  ⟨promote_of_nan, fun _ => promote_inf, fun _ _ => fpValue_promote_fin, narrow_promote⟩

end Sys2Proof.Machine
end

section
/-! Every NaN result is the canonical NaN (spec/46_numerics.md R242), and which operands give one (R236, R237, R239,
R241). -/

namespace Sys2Proof.Machine

variable {w : Width}

/-- A pattern that is the canonical NaN if it is a NaN. -/
def OnlyCanonicalNaN (w : Width) (x : BitVec w.bits) : Prop := fpValue w x = .nan → x = canonicalNaN w

theorem onlyCanonicalNaN_canonicalNaN (w : Width) : OnlyCanonicalNaN w (canonicalNaN w) := fun _ => rfl

theorem onlyCanonicalNaN_fpPattern {neg : Bool} {p : Nat} (hp : p ≤ infinityField w) :
    OnlyCanonicalNaN w (fpPattern w neg p) := fun h => absurd h (fpValue_fpPattern_ne_nan hp)

theorem onlyCanonicalNaN_infinity (w : Width) (neg : Bool) : OnlyCanonicalNaN w (infinity w neg) :=
  onlyCanonicalNaN_fpPattern le_rfl

theorem onlyCanonicalNaN_roundSum (w : Width) (s : Nat) (neg1 : Bool) (n1 : Nat) (neg2 : Bool) (n2 : Nat) :
    OnlyCanonicalNaN w (roundSum w s neg1 n1 neg2 n2) := by
  rw [roundSum]
  split
  · exact onlyCanonicalNaN_fpPattern (Nat.zero_le _)
  · exact onlyCanonicalNaN_fpPattern (roundMagnitude_le _ _ _)

theorem onlyCanonicalNaN_addToInfinity (w : Width) (ps : Bool) (v : FpValue) :
    OnlyCanonicalNaN w (addToInfinity w ps v) := by
  cases v with
  | nan => exact onlyCanonicalNaN_canonicalNaN w
  | inf sc =>
    rw [addToInfinity]
    split
    · exact onlyCanonicalNaN_infinity w ps
    · exact onlyCanonicalNaN_canonicalNaN w
  | fin sc nc => exact onlyCanonicalNaN_infinity w ps

theorem onlyCanonicalNaN_fusedMultiplyAdd (w : Width) (negate : Bool) (a b c : BitVec w.bits) :
    OnlyCanonicalNaN w (fusedMultiplyAdd w negate a b c) := by
  rw [fusedMultiplyAdd]
  split
  · exact onlyCanonicalNaN_canonicalNaN w
  · exact onlyCanonicalNaN_canonicalNaN w
  · exact onlyCanonicalNaN_canonicalNaN w
  · exact onlyCanonicalNaN_addToInfinity w _ _
  · split
    · exact onlyCanonicalNaN_canonicalNaN w
    · exact onlyCanonicalNaN_addToInfinity w _ _
  · split
    · exact onlyCanonicalNaN_canonicalNaN w
    · exact onlyCanonicalNaN_addToInfinity w _ _
  · exact onlyCanonicalNaN_infinity w _
  · exact onlyCanonicalNaN_roundSum w _ _ _ _ _

theorem onlyCanonicalNaN_fadd (w : Width) (a b : BitVec w.bits) : OnlyCanonicalNaN w (fadd w a b) := by
  rw [fadd]
  split
  · exact onlyCanonicalNaN_canonicalNaN w
  · exact onlyCanonicalNaN_canonicalNaN w
  · split
    · exact onlyCanonicalNaN_infinity w _
    · exact onlyCanonicalNaN_canonicalNaN w
  · exact onlyCanonicalNaN_infinity w _
  · exact onlyCanonicalNaN_infinity w _
  · exact onlyCanonicalNaN_roundSum w _ _ _ _ _

theorem onlyCanonicalNaN_promote (wn ww : Width) (a : BitVec wn.bits) : OnlyCanonicalNaN ww (promote wn ww a) := by
  rw [promote]
  split
  · exact onlyCanonicalNaN_canonicalNaN ww
  · exact onlyCanonicalNaN_infinity ww _
  · exact onlyCanonicalNaN_fpPattern (roundMagnitude_le _ _ _)

theorem onlyCanonicalNaN_narrow (ww wn : Width) (a : BitVec ww.bits) : OnlyCanonicalNaN wn (narrow ww wn a) := by
  rw [narrow]
  split
  · exact onlyCanonicalNaN_canonicalNaN wn
  · exact onlyCanonicalNaN_infinity wn _
  · exact onlyCanonicalNaN_fpPattern (roundMagnitude_le _ _ _)

/-! ### An infinite product and the addend (R236 step 3) -/

variable {ps : Bool} {v : FpValue}

theorem addToInfinity_opposite (h : v = .inf (!ps)) : addToInfinity w ps v = canonicalNaN w := by
  subst h
  exact if_neg (Bool.not_ne_self ps)

theorem addToInfinity_same (h : v = .inf ps) : addToInfinity w ps v = infinity w ps := by
  subst h
  exact if_pos rfl

theorem addToInfinity_finite (h : v.isFinite = true) : addToInfinity w ps v = infinity w ps := by
  obtain ⟨sc, nc, rfl⟩ := (FpValue.isFinite_iff v).1 h
  rfl

/-- Settles O59, by the steps of R236 and the cases of R239 and R241. -/
theorem naNResultsAreCanonical : Obligations.NaNResultsAreCanonical := by
  refine ⟨⟨rfl, rfl, rfl⟩, fun w => ⟨fpValue_canonicalNaN w, fpValue_infinity w,
    fun a b c => onlyCanonicalNaN_fusedMultiplyAdd w false a b c,
    fun a b c => onlyCanonicalNaN_fusedMultiplyAdd w true a b c, onlyCanonicalNaN_fadd w,
    onlyCanonicalNaN_promote w w.wider, onlyCanonicalNaN_narrow w.wider w, fun a b c r neg hr => ?_, fun a b => ?_,
    fun _ a => ⟨narrow_of_nan, fun _ => narrow_inf⟩⟩⟩
  · obtain rfl : r = fusedMultiplyAdd w neg a b c := by cases neg <;> exact hr
    refine ⟨fusedMultiplyAdd_of_nan, fusedMultiplyAdd_inf_zero, fusedMultiplyAdd_zero_inf,
      fun sa sb ha hb hinf => ?_, fusedMultiplyAdd_inf_addend⟩
    rw [fusedMultiplyAdd_inf_product ha hb hinf]
    exact ⟨addToInfinity_opposite, addToInfinity_same, addToInfinity_finite⟩
  · exact ⟨fadd_of_nan, fun s ha hb => by rw [fadd_inf_inf ha hb, if_neg (Bool.not_ne_self s).symm],
      fun s ha hb => by rw [fadd_inf_inf ha hb, if_pos rfl], fadd_inf_fin, fadd_fin_inf⟩

end Sys2Proof.Machine
end

section
/-! The host side's inputs, one step each (spec/60_exceptions.md R272, spec/70_reset_and_hazards.md R290): the idle
engine, that every step answers a next state, and hardware reset. -/

namespace Sys2Proof.Machine

theorem exec_answers (i : Instr) (s : State) : ∃ t, exec i s = .next t := by
  cases i <;> exact ⟨_, rfl⟩

theorem accept_answers (s : State) (c : Command) : ∃ t, s.accept c = .next t := by
  cases hdecode : decode c.cmd with
  | error e => exact ⟨_, accept_error hdecode⟩
  | ok i => rw [accept_ok hdecode]; exact exec_answers i _

/-- Settles O7. -/
theorem idleKeepsState : Obligations.IdleKeepsState := fun _ => step_idle

/-- Settles O8, by the kind of the next input. -/
theorem stepAnswersNext : Obligations.StepAnswersNext := by
  intro s
  cases hinputs : s.inputs with
  | nil => exact ⟨s, step_idle hinputs⟩
  | cons x rest =>
    cases x with
    | command c => rw [step_command hinputs]; exact accept_answers _ c
    | external a b => exact ⟨_, step_external hinputs⟩
    | reset k => exact ⟨_, step_reset hinputs⟩
    | resetDuring k c requests work => exact ⟨_, step_resetDuring hinputs⟩

/-- What a hardware reset of either kind leaves: a soft reset, and after a power-on free slots on top of it. -/
theorem hardReset_frame (s : State) (k : ResetKind) :
    s.hardReset k = { s.softReset with
      acc := (s.hardReset k).acc, bbuf := (s.hardReset k).bbuf, wbs := (s.hardReset k).wbs,
      scal := (s.hardReset k).scal, draws := (s.hardReset k).draws } := by
  cases k <;> rfl

theorem hardReset_controlReset (s : State) (k : ResetKind) : (s.hardReset k).controlReset := by
  rw [hardReset_frame]
  exact softReset_controlReset s

/-- What lies outside the engine is not touched (spec/10_state.md R44). -/
theorem hardReset_outside (s : State) (k : ResetKind) :
    (s.hardReset k).mem = s.mem ∧ (s.hardReset k).inputs = s.inputs ∧
      (s.hardReset k).responses = s.responses ∧ (s.hardReset k).trace = s.trace := by
  rw [hardReset_frame]
  exact ⟨rfl, rfl, rfl, rfl⟩

/-- Settles O49: a warm reset is a soft reset, which keeps the slots and SCAL. -/
theorem hardwareReset : Obligations.HardwareReset := by
  intro s k rest hinputs
  obtain ⟨hmem, hrest, hresponses, htrace⟩ := hardReset_outside { s with inputs := rest } k
  refine ⟨_, step_reset hinputs, hardReset_controlReset _ k, hmem, hardReset_params _ k, hrest, hresponses, htrace, ?_⟩
  rintro rfl
  exact ⟨rfl, rfl, rfl, rfl⟩

end Sys2Proof.Machine
end

section
/-! The fault state (spec/60_exceptions.md R262 to R268): what its entry records, that a fault of cause 1 to 5 outside a
job changes nothing else, what still runs in it, and that no command but SRESET leaves it. -/

namespace Sys2Proof.Machine

/-! ### Entry (60_exceptions.md R265) -/

/-- A command that ends with a fault recorded, where none was, ends in fault entry for the record on the interface. -/
theorem State.Runs.faulted {W : List Part} {s t : State} (hruns : s.Runs W t) (hfault : s.fault = false)
    (hfaulted : t.fault = true) :
    ∃ (u : State) (c : Cause) (n : Nat), u.port = s.port ∧ u.responses = s.responses ∧ u.fault = false ∧
      c ≠ .none ∧ t = u.raiseFault c n := by
  obtain ⟨u, heffect, hends⟩ := hruns
  obtain ⟨hkept, hport⟩ := heffect.fault_port
  have hrunning : u.fault = false := hkept.trans hfault
  cases hends with
  | answered d => exact absurd (hrunning.symm.trans hfaulted) Bool.false_ne_true
  | refused => exact absurd (hrunning.symm.trans hfaulted) Bool.false_ne_true
  | faulted c n hc hn => exact ⟨u, c, n, hport, heffect.responses, hrunning, hc, rfl⟩

/-- Settles O11: SRESET never faults, and every other command that does ends in fault entry. -/
theorem faultEntryRecordsCommand : Obligations.FaultEntryRecordsCommand := by
  intro i s t hfault hexec hfaulted
  by_cases hsreset : i = .sreset
  · subst hsreset
    cases hexec
    exact absurd hfaulted Bool.false_ne_true
  · obtain ⟨u, c, n, hport, hresponses, hrunning, hc, rfl⟩ := (exec_runs hexec hsreset).faulted hfault hfaulted
    rw [raiseFault_running hrunning]
    refine ⟨hc, congrArg Command.cmd hport, fun hmis haccess => ?_, congrArg _ hresponses⟩
    exact if_neg (not_or.2 ⟨hmis, haccess⟩)

/-! ### Precise faults (60_exceptions.md R266) -/

/-- A fault of cause 1 to 5 that the operation raises is raised in the state it began in. -/
def Micro.Precise (s : State) (m : Micro) : Prop :=
  ∀ c n u, m = .raised c n u → c ≠ .accessFault → u = s

section
variable {s : State} {m : Micro}

theorem precise_done (u : State) : (Micro.done u).Precise s := fun _ _ _ h => Micro.noConfusion h

theorem precise_raised (c : Cause) (n : Nat) : (Micro.raised c n s).Precise s := by
  intro c' n' u h _
  cases h
  rfl

theorem precise_accessFault (n : Nat) (u : State) : (Micro.raised .accessFault n u).Precise s := by
  intro c' n' u' h hc
  cases h
  exact absurd rfl hc

theorem needFormat_precise {k : Format → Micro} (hk : ∀ f, (k f).Precise s) : (s.needFormat k).Precise s := by
  cases hf : s.format with
  | none => rw [needFormat_none hf]; exact precise_raised _ _
  | some f => rw [needFormat_some hf]; exact hk f

theorem needVcfg_precise (h : m.Precise s) (f : Format) (c : BitVec 2) (g : Bool) :
    (s.needVcfg f c g m).Precise s := by
  cases hv : s.vcfgOk f c g with
  | true => rwa [needVcfg_ok hv]
  | false => rw [needVcfg_mismatch hv]; exact precise_raised _ _

theorem vload_precise (f : Format) (d : SlotName) (a : Nat) (s : State) : (vload none f d a s).Precise s := by
  rcases vload_cases f d a s with ⟨-, h⟩ | ⟨-, -, h⟩ | ⟨-, k, -, -, ⟨-, h⟩ | ⟨-, -, h⟩⟩ <;> rw [h]
  · exact precise_raised _ _
  · exact precise_done _
  · exact precise_accessFault _ _
  · exact precise_accessFault _ _

theorem vstore_precise (f : Format) (d : SlotName) (a : Nat) (s : State) : (vstore none f d a s).Precise s := by
  rcases vstore_cases f d a s with ⟨-, h⟩ | ⟨-, -, h⟩ | ⟨-, k, -, -, ⟨-, h⟩ | ⟨-, -, h⟩⟩ <;> rw [h]
  · exact precise_raised _ _
  · exact precise_done _
  · exact precise_accessFault _ _
  · exact precise_accessFault _ _

theorem sload_precise (f : Format) (r : BitVec 2) (a : Nat) (s : State) : (sload none f r a s).Precise s := by
  rcases sload_cases f r a s with ⟨-, h⟩ | ⟨-, -, h⟩ | ⟨-, -, h⟩ | ⟨-, -, -, h⟩ <;> rw [h]
  · exact precise_raised _ _
  · exact precise_done _
  · exact precise_accessFault _ _
  · exact precise_accessFault _ _

/-- The address is checked before the load, so the store that follows finds it aligned. -/
theorem writeback_precise (f : Format) (r : BitVec 2) (d : Nat) (s : State) : (writeback none f r d s).Precise s := by
  rcases writeback_cases f r d s with
    ⟨-, h⟩ | ⟨-, -, -, h⟩ | ⟨c, n, t, hload, h⟩ | ⟨-, -, k, -, -, ⟨-, h⟩ | ⟨-, -, h⟩⟩ <;> rw [h]
  · exact precise_raised _ _
  · exact precise_done _
  · rw [← hload]; exact vload_precise f .wbs d s
  · exact precise_accessFault _ _
  · exact precise_accessFault _ _

theorem runCld_precise (s : State) (vsel : BitVec 2) : (runCld none vsel s).Precise s := by
  unfold runCld
  split
  · exact precise_raised _ _
  · exact needFormat_precise fun f => needVcfg_precise (vload_precise f _ _ s) f _ _

theorem runCst_precise (s : State) (vsel : BitVec 2) : (runCst none vsel s).Precise s := by
  unfold runCst
  split
  · exact precise_raised _ _
  · exact needFormat_precise fun f => needVcfg_precise (vstore_precise f _ _ s) f _ _

theorem csrWrite_precise (r : Csr) (s : State) : (s.csrWrite r).Precise s := by
  cases r with
  | fmt =>
    unfold State.csrWrite
    dsimp only
    split
    · exact precise_done _
    · exact precise_raised _ _
  | cbase | abase | bbase | dimM | dimN | dimP | mStart | mEnd | pStart | pEnd => exact precise_done _
  | _ => exact precise_raised _ _

end

/-- If a fault of cause 1 to 5 stands recorded in `t`, its entry is all that `t` differs from `s` in. -/
def State.FaultsPrecisely (s t : State) : Prop :=
  t.fault = true → t.cause ≠ .accessFault → ∃ a, t = s.faulted t.cause a

section
variable {s : State} (hfault : s.fault = false)
include hfault

theorem respond_faultsPrecisely {t : State} (h : t.fault = s.fault) (d : DWord) :
    s.FaultsPrecisely (t.respond d) :=
  fun hfaulted _ => absurd ((h.trans hfault).symm.trans hfaulted) Bool.false_ne_true

theorem raiseFault_faultsPrecisely (c : Cause) (n : Nat) : s.FaultsPrecisely (s.raiseFault c n) := by
  intro _ _
  rw [raiseFault_running hfault]
  by_cases hc : c = .misaligned ∨ c = .accessFault
  · exact ⟨n, by simp only [if_pos hc]; rfl⟩
  · exact ⟨0, by simp only [if_neg hc]; rfl⟩

theorem finish_faultsPrecisely {W : List Part} {m : Micro} (hdoes : m.Does W none s) (hprecise : m.Precise s) :
    s.FaultsPrecisely m.finish := by
  cases m with
  | done u => exact respond_faultsPrecisely hfault (Effect.fault_port hdoes).1 0
  | raised c n u =>
    by_cases hc : c = .accessFault
    · subst hc
      intro _ hcause
      obtain ⟨heffect, -⟩ := hdoes
      rw [finish_raised, raiseFault_running (heffect.fault_port.1.trans hfault)] at hcause
      exact absurd rfl hcause
    · rw [hprecise c n u rfl hc]
      exact raiseFault_faultsPrecisely hfault c n
  | cut u => exact absurd rfl hdoes.2

theorem unlessFaulted_faultsPrecisely {run : State → State} (h : s.FaultsPrecisely (run s)) :
    s.FaultsPrecisely (s.unlessFaulted run) := by rwa [unlessFaulted_running hfault]

theorem exec_faultsPrecisely {i : Instr} {t : State} (hexec : exec i s = .next t) (hjob : ¬ isJob i) :
    s.FaultsPrecisely t := by
  cases i with
  | nop => cases hexec; exact unlessFaulted_faultsPrecisely hfault (respond_faultsPrecisely hfault rfl 0)
  | sreset => cases hexec; exact fun hfaulted => absurd hfaulted Bool.false_ne_true
  | csrw csr =>
    cases hexec
    refine unlessFaulted_faultsPrecisely hfault ?_
    split
    · exact raiseFault_faultsPrecisely hfault _ _
    · exact finish_faultsPrecisely hfault (csrWrite_does none s _) (csrWrite_precise _ s)
  | csrr csr =>
    cases hexec
    split
    · exact raiseFault_faultsPrecisely hfault _ _
    · exact respond_faultsPrecisely hfault rfl _
  | vlreq ew grp =>
    cases hexec
    refine unlessFaulted_faultsPrecisely hfault ?_
    split
    · exact raiseFault_faultsPrecisely hfault _ _
    · exact respond_faultsPrecisely (t := s.negotiate s.port.opA.toNat ew grp) hfault rfl _
  | cld vsel =>
    cases hexec
    exact unlessFaulted_faultsPrecisely hfault (finish_faultsPrecisely hfault (runCld_does none s vsel)
      (runCld_precise s vsel))
  | cst vsel =>
    cases hexec
    exact unlessFaulted_faultsPrecisely hfault (finish_faultsPrecisely hfault (runCst_does none s vsel)
      (runCst_precise s vsel))
  | sld row =>
    cases hexec
    exact unlessFaulted_faultsPrecisely hfault (finish_faultsPrecisely hfault (runSld_does none s row)
      (needFormat_precise fun f => sload_precise f row _ s))
  | czero mask =>
    cases hexec
    exact unlessFaulted_faultsPrecisely hfault (finish_faultsPrecisely hfault (runCzero_does none s mask)
      (needFormat_precise fun f => needVcfg_precise (precise_done _) f _ _))
  | cmac row buf =>
    cases hexec
    exact unlessFaulted_faultsPrecisely hfault (finish_faultsPrecisely hfault (runCmac_does none s row buf)
      (needFormat_precise fun f => needVcfg_precise (precise_done _) f _ _))
  | wb row =>
    cases hexec
    exact unlessFaulted_faultsPrecisely hfault (finish_faultsPrecisely hfault (runWb_does none s row)
      (needFormat_precise fun f => needVcfg_precise (writeback_precise f row _ s) f _ _))
  | mm2 => exact absurd (.inl rfl) hjob
  | mm4 => exact absurd (.inr (.inl rfl)) hjob
  | mm => exact absurd (.inr (.inr rfl)) hjob

end

/-- Settles O12: each command that is not a job checks before it writes, and only a refused request comes later. -/
theorem faultsArePrecise : Obligations.FaultsArePrecise :=
  fun _ _ _ hfault hjob hexec => exec_faultsPrecisely hfault hexec hjob

/-! ### What runs in the fault state (60_exceptions.md R267, R268) -/

/-- In the fault state a command other than SRESET is turned away, or is a read of a register. -/
theorem exec_faulted_cases {s : State} (hfault : s.fault = true) {i : Instr} (hsreset : i ≠ .sreset) :
    exec i s = .next s.turnedAway ∨
      ∃ csr r, i = .csrr csr ∧ csrOfNumber csr = some r ∧ exec i s = .next (s.answered (s.csrValue r)) := by
  cases i with
  | sreset => exact absurd rfl hsreset
  | csrr csr =>
    cases hr : csrOfNumber csr with
    | none => exact .inl ((exec_csrr_unimplemented hr s).trans (congrArg _ (raiseFault_eq_turnedAway hfault _ _)))
    | some r => exact .inr ⟨csr, r, rfl, hr, exec_csrr hr s⟩
  | _ => exact .inl (congrArg Host.Outcome.next (unlessFaulted_faulted hfault _))

theorem accept_faulted_cases {s : State} (hfault : s.fault = true) {c : Command}
    (hsreset : decode c.cmd ≠ .ok .sreset) :
    s.accept c = .next ({ s with port := c } : State).turnedAway ∨
      ∃ csr r, decode c.cmd = .ok (.csrr csr) ∧ csrOfNumber csr = some r ∧
        s.accept c = .next (({ s with port := c } : State).answered (s.csrValue r)) := by
  cases hdecode : decode c.cmd with
  | error e =>
    rw [accept_error hdecode]
    exact .inl (congrArg _ (raiseFault_eq_turnedAway (by exact hfault) _ _))
  | ok i =>
    rw [accept_ok hdecode]
    rcases exec_faulted_cases (s := { s with port := c }) hfault (fun h => hsreset (h ▸ hdecode)) with
      h | ⟨csr, r, rfl, hr, h⟩
    · exact .inl h
    · exact .inr ⟨csr, r, rfl, hr, h⟩

/-- Settles O10: what CSRR and SRESET do they do in every state, and the rest is turned away. -/
theorem faultStateRefusesOthers : Obligations.FaultStateRefusesOthers := by
  intro s c rest hinputs hfault
  rw [step_command hinputs]
  refine ⟨fun csr d hdecode hmem => ?_, fun hdecode => ?_, fun hsreset hunimplemented => ?_⟩
  · obtain ⟨r, hr, rfl⟩ := mem_csrTable_iff.1 hmem
    exact (accept_ok hdecode).trans (exec_csrr hr _)
  · exact ⟨_, accept_ok hdecode, softReset_controlReset { s with inputs := rest, port := c }, rfl⟩
  · rcases accept_faulted_cases (s := { s with inputs := rest }) hfault hsreset with h | ⟨csr, r, hdecode, hr, -⟩
    · exact h
    · exact absurd (csrValue_mem_csrTable hr s) (hunimplemented csr _ hdecode)

/-- Settles O13, by the kind of the input: a command is turned away or reads a register, and the external agent writes
memory alone. -/
theorem faultClearedOnlyByReset : Obligations.FaultClearedOnlyByReset := by
  intro s t x rest hinputs hfault hstep
  cases x with
  | command c =>
    by_cases hsreset : decode c.cmd = .ok .sreset
    · exact .inr (.inl ⟨c, rfl, hsreset⟩)
    · rw [step_command hinputs] at hstep
      rcases accept_faulted_cases (s := { s with inputs := rest }) hfault hsreset with h | ⟨_, _, -, -, h⟩ <;>
      · cases h.symm.trans hstep
        exact .inl ⟨hfault, rfl, rfl, rfl⟩
  | external a b =>
    rw [step_external hinputs] at hstep
    cases hstep
    exact .inl ⟨hfault, rfl, rfl, rfl⟩
  | reset k => exact .inr (.inr (.inl ⟨k, rfl⟩))
  | resetDuring k c requests work => exact .inr (.inr (.inr ⟨k, c, requests, work, rfl⟩))

end Sys2Proof.Machine
end

section
/-! A command cut by a hardware reset right before one of its requests (spec/70_reset_and_hazards.md R290), beside the
same command run to its end, operation by operation: they do the same as long as the request is not reached, and from
there on the full run only adds requests. -/

namespace Sys2Proof.Machine

/-! ### An operation that may be cut, beside the same operation run to its end -/

/-- `cut` and `full` are one run that makes no request number `n` of the trace, or `cut` stops with the first `n`
requests of the longer `full`. -/
def Micro.AgreeUpTo (n : Nat) (cut full : Micro) : Prop :=
  cut = full ∧ full.state.trace.length ≤ n ∨
    ∃ t, cut = .cut t ∧ t.trace.length = n ∧ t.trace <:+ full.state.trace ∧ n < full.state.trace.length

/-- Of an operation begun in `s`, `cut` is the run up to request number `n` of the trace and `full` the run to its end,
which adds its requests to those made before. -/
structure Micro.CutAt (n : Nat) (s : State) (cut full : Micro) : Prop where
  adds : s.trace <:+ full.state.trace
  agrees : s.trace.length ≤ n → Micro.AgreeUpTo n cut full

/-- How a command goes on after a read of one part (spec/20_memory.md R66). -/
def ReadAnswer.andThen {w : Width} (onError : State → Micro) (onData : BitVec w.bits → State → Micro) :
    ReadAnswer w → Micro
  | .data v s => onData v s
  | .error s => onError s
  | .cut s => .cut s

/-- The operation with `g` applied to the state in which a fault was raised. -/
def Micro.onFault (g : State → State) : Micro → Micro
  | .done s => .done s
  | .raised c i s => .raised c i (g s)
  | .cut s => .cut s

section
variable {n : Nat} {s t : State} {m cut full : Micro}

/-- An operation that makes no request and that no reset can cut. -/
theorem cutAt_of_quiet (h : m.state.trace = s.trace) : Micro.CutAt n s m m :=
  ⟨h ▸ List.suffix_rfl, fun hn => .inl ⟨rfl, h ▸ hn⟩⟩

/-- A change before the operation that makes no request. -/
theorem Micro.CutAt.after (h : Micro.CutAt n t cut full) (hst : t.trace = s.trace) : Micro.CutAt n s cut full :=
  ⟨hst ▸ h.adds, fun hn => h.agrees (hst ▸ hn)⟩

theorem Micro.CutAt.andThen {k k' : State → Micro} (h : Micro.CutAt n s cut full)
    (hk : ∀ u, Micro.CutAt n u (k u) (k' u)) : Micro.CutAt n s (cut.andThen k) (full.andThen k') := by
  have hadds : full.state.trace <:+ (full.andThen k').state.trace := by
    cases full with
    | done u => exact (hk u).adds
    | raised c i u => exact List.suffix_rfl
    | cut u => exact List.suffix_rfl
  refine ⟨h.adds.trans hadds, fun hn => ?_⟩
  rcases h.agrees hn with ⟨rfl, hlength⟩ | ⟨t, rfl, ht, hsuffix, hlonger⟩
  · cases cut with
    | done u => exact (hk u).agrees hlength
    | raised c i u => exact .inl ⟨rfl, hlength⟩
    | cut u => exact .inl ⟨rfl, hlength⟩
  · exact .inr ⟨t, rfl, ht, hsuffix.trans hadds, hlonger.trans_le hadds.length_le⟩

theorem Micro.CutAt.onFault {g : State → State} (hg : ∀ u, (g u).trace = u.trace) (h : Micro.CutAt n s cut full) :
    Micro.CutAt n s (cut.onFault g) (full.onFault g) := by
  have htrace : (full.onFault g).state.trace = full.state.trace := by
    cases full with
    | done u => rfl
    | raised c i u => exact hg u
    | cut u => rfl
  refine ⟨htrace ▸ h.adds, fun hn => ?_⟩
  rw [Micro.AgreeUpTo, htrace]
  rcases h.agrees hn with ⟨rfl, hlength⟩ | ⟨t, rfl, hcut⟩
  · exact .inl ⟨rfl, hlength⟩
  · exact .inr ⟨t, rfl, hcut⟩

theorem needFormat_cutAt {k k' : Format → Micro} (hk : ∀ f, Micro.CutAt n s (k f) (k' f)) :
    Micro.CutAt n s (s.needFormat k) (s.needFormat k') := by
  cases hf : s.format with
  | none => rw [needFormat_none hf, needFormat_none hf]; exact cutAt_of_quiet rfl
  | some f => rw [needFormat_some hf, needFormat_some hf]; exact hk f

theorem needVcfg_cutAt (h : Micro.CutAt n s cut full) (f : Format) (c : BitVec 2) (g : Bool) :
    Micro.CutAt n s (s.needVcfg f c g cut) (s.needVcfg f c g full) := by
  cases hv : s.vcfgOk f c g with
  | true => rwa [needVcfg_ok hv, needVcfg_ok hv]
  | false => rw [needVcfg_mismatch hv, needVcfg_mismatch hv]; exact cutAt_of_quiet rfl

theorem needAligned_cutAt (h : Micro.CutAt n s cut full) (f : Format) (a : Nat) :
    Micro.CutAt n s (s.needAligned f a cut) (s.needAligned f a full) := by
  by_cases ha : a % f.eb = 0
  · rwa [needAligned_ok ha, needAligned_ok ha]
  · rw [needAligned_misaligned ha, needAligned_misaligned ha]; exact cutAt_of_quiet rfl

/-- One request and what follows it: the reset comes right before the request, or the request is made by both runs. -/
theorem cutAt_of_request (hadds : ∃ r, r :: s.trace <:+ full.state.trace)
    (hcut : n = s.trace.length → cut = .cut s)
    (hmade : s.trace.length < n → Micro.AgreeUpTo n cut full) : Micro.CutAt n s cut full := by
  obtain ⟨r, hr⟩ := hadds
  refine ⟨(List.suffix_cons r s.trace).trans hr, fun hn => ?_⟩
  rcases hn.eq_or_lt with hn | hn
  · exact .inr ⟨s, hcut hn.symm, hn, (List.suffix_cons r s.trace).trans hr, hn ▸ hr.length_le⟩
  · exact hmade hn

theorem memRead_cutAt (a : Nat) (w : Width) {onError : State → Micro} {onData onData' : BitVec w.bits → State → Micro}
    (herror : ∀ u, (onError u).state.trace = u.trace) (hdata : ∀ v u, Micro.CutAt n u (onData v u) (onData' v u)) :
    Micro.CutAt n s ((s.memRead (some n) a w).andThen onError onData)
      ((s.memRead none a w).andThen onError onData') := by
  cases hadmits : s.admits .read a w with
  | true =>
    rw [memRead_ok hadmits]
    have hthen := hdata (s.loadValue a w) (s.logRequest (s.readRequest a w))
    refine cutAt_of_request ⟨_, hthen.adds⟩ (fun hn => ?_) fun hn => ?_
    · rw [hn, memRead_cut]; rfl
    · rw [memRead_uncut hn.ne', memRead_ok hadmits]; exact hthen.agrees hn
  | false =>
    rw [memRead_refused hadmits]
    have htrace := herror (s.logRequest (refusedRead a w))
    refine cutAt_of_request ⟨refusedRead a w, htrace ▸ List.suffix_rfl⟩ (fun hn => ?_) fun hn => ?_
    · rw [hn, memRead_cut]; rfl
    · rw [memRead_uncut hn.ne', memRead_refused hadmits]; exact .inl ⟨rfl, htrace ▸ hn⟩

theorem memWrite_cutAt (a : Nat) (w : Width) (v : BitVec w.bits) :
    Micro.CutAt n s (s.memWrite (some n) a w v) (s.memWrite none a w v) := by
  have htrace : ∃ r, (s.memWrite none a w v).state.trace = r :: s.trace := by
    rcases memWrite_cases s none a w v with ⟨h, -⟩ | ⟨-, -, h⟩ | ⟨-, -, h⟩
    · exact absurd h (by simp)
    · exact ⟨_, congrArg (·.state.trace) h⟩
    · exact ⟨_, congrArg (·.state.trace) h⟩
  obtain ⟨r, hr⟩ := htrace
  refine cutAt_of_request ⟨r, hr ▸ List.suffix_rfl⟩ (fun hn => ?_) fun hn => ?_
  · rw [hn, memWrite_cut]
  · exact .inl ⟨memWrite_uncut hn.ne' a w v, hr ▸ hn⟩

end

/-! ### Loads and stores -/

section
variable (n : Nat) (f : Format) (s : State)

theorem loadElement_eq (stop : Option Nat) (d : SlotName) (a i : Nat) :
    loadElement stop f d a i s =
      (s.memRead stop (s.reAddr f a i) f.storage).andThen (fun u => .raised .accessFault (u.reAddr f a i) u)
        fun re u => (u.memRead stop (u.imAddr f a i) f.storage).andThen
          (fun v => .raised .accessFault (v.imAddr f a i) v)
          fun im v => .done (v.setSlot d ((v.slot d).setElement f.storage i re im)) := by
  unfold loadElement
  cases s.memRead stop (s.reAddr f a i) f.storage with
  | data re u => dsimp only [ReadAnswer.andThen]; cases u.memRead stop (u.imAddr f a i) f.storage <;> rfl
  | error u | cut u => rfl

theorem vload_eq (stop : Option Nat) (d : SlotName) (a : Nat) :
    vload stop f d a s =
      s.needAligned f a ((loadElements stop f d a s.vl.toNat s).onFault fun u => u.freeTarget f d) := by
  unfold vload
  cases loadElements stop f d a s.vl.toNat s <;> rfl

theorem sload_eq (stop : Option Nat) (r : BitVec 2) (a : Nat) :
    sload stop f r a s = s.needAligned f a
      ((s.memRead stop (s.reAddr f a 0) f.storage).andThen
        (fun u => .raised .accessFault (u.reAddr f a 0) (u.freeScal r))
        fun re u => (u.memRead stop (u.imAddr f a 0) f.storage).andThen
          (fun v => .raised .accessFault (v.imAddr f a 0) (v.freeScal r))
          fun im v => .done (v.setScalRow r { re := re.setWidth 64, im := im.setWidth 64 })) := by
  unfold sload
  cases s.memRead stop (s.reAddr f a 0) f.storage with
  | data re u => dsimp only [ReadAnswer.andThen]; cases u.memRead stop (u.imAddr f a 0) f.storage <;> rfl
  | error u | cut u => rfl

theorem loadElement_cutAt (d : SlotName) (a i : Nat) :
    Micro.CutAt n s (loadElement (some n) f d a i s) (loadElement none f d a i s) := by
  rw [loadElement_eq, loadElement_eq]
  exact memRead_cutAt _ _ (fun _ => rfl) fun _ _ => memRead_cutAt _ _ (fun _ => rfl) fun _ _ =>
    cutAt_of_quiet (setSlot_trace ..)

theorem loadElements_cutAt (d : SlotName) (a k : Nat) :
    Micro.CutAt n s (loadElements (some n) f d a k s) (loadElements none f d a k s) := by
  induction k with
  | zero => exact cutAt_of_quiet rfl
  | succ k ih => exact ih.andThen fun u => loadElement_cutAt n f u d a k

theorem vload_cutAt (d : SlotName) (a : Nat) :
    Micro.CutAt n s (vload (some n) f d a s) (vload none f d a s) := by
  rw [vload_eq, vload_eq]
  exact needAligned_cutAt ((loadElements_cutAt n f s d a _).onFault fun _ => freeTarget_trace ..) f a

theorem storeElement_cutAt (d : SlotName) (a i : Nat) :
    Micro.CutAt n s (storeElement (some n) f d a i s) (storeElement none f d a i s) :=
  (memWrite_cutAt ..).andThen fun _ => memWrite_cutAt ..

theorem storeElements_cutAt (d : SlotName) (a k : Nat) :
    Micro.CutAt n s (storeElements (some n) f d a k s) (storeElements none f d a k s) := by
  induction k with
  | zero => exact cutAt_of_quiet rfl
  | succ k ih => exact ih.andThen fun u => storeElement_cutAt n f u d a k

theorem vstore_cutAt (d : SlotName) (a : Nat) :
    Micro.CutAt n s (vstore (some n) f d a s) (vstore none f d a s) :=
  needAligned_cutAt (storeElements_cutAt n f s d a _) f a

theorem sload_cutAt (r : BitVec 2) (a : Nat) :
    Micro.CutAt n s (sload (some n) f r a s) (sload none f r a s) := by
  rw [sload_eq, sload_eq]
  refine needAligned_cutAt ?_ f a
  exact memRead_cutAt _ _ (fun _ => rfl) fun _ _ => memRead_cutAt _ _ (fun _ => rfl) fun _ _ => cutAt_of_quiet rfl

theorem writeback_cutAt (r : BitVec 2) (d : Nat) :
    Micro.CutAt n s (writeback (some n) f r d s) (writeback none f r d s) :=
  (vload_cutAt n f s .wbs d).andThen fun _ => (vstore_cutAt n f _ .wbs d).after rfl

/-! ### Jobs -/

theorem forRows_cutAt {op op' : BitVec 2 → State → Micro} (hop : ∀ r u, Micro.CutAt n u (op r u) (op' r u))
    (rows : Nat) : Micro.CutAt n s (forRows op rows s) (forRows op' rows s) := by
  induction rows with
  | zero => exact cutAt_of_quiet rfl
  | succ rows ih => exact ih.andThen (hop (BitVec.ofNat 2 rows))

theorem jobInit_cutAt (rows : Nat) : Micro.CutAt n s (jobInit (some n) f rows s) (jobInit none f rows s) := by
  rw [jobInit_eq_vload, jobInit_eq_vload]
  exact (vload_cutAt n f _ _ _).after rfl

theorem jobPrefetch_cutAt : Micro.CutAt n s (jobPrefetch (some n) f s) (jobPrefetch none f s) := by
  unfold jobPrefetch
  split
  · exact vload_cutAt ..
  · exact cutAt_of_quiet rfl

theorem jobHalf_cutAt (rows : Nat) : Micro.CutAt n s (jobHalf (some n) f rows s) (jobHalf none f rows s) :=
  (((forRows_cutAt n s (fun r u => sload_cutAt n f u r _) rows).andThen fun u => jobPrefetch_cutAt n f u).andThen
    fun u => forRows_cutAt n u (fun _ _ => cutAt_of_quiet rfl) rows).andThen fun u =>
      cutAt_of_quiet (advanceIndex_trace u)

theorem jobSteady_cutAt (rows k : Nat) :
    Micro.CutAt n s (jobSteady (some n) f rows k s) (jobSteady none f rows k s) := by
  induction k generalizing s with
  | zero => exact cutAt_of_quiet rfl
  | succ k ih =>
    refine (jobHalf_cutAt n f s rows).andThen fun u => ?_
    split
    · exact cutAt_of_quiet rfl
    · exact ih u

theorem jobBlock_cutAt (rows : Nat) : Micro.CutAt n s (jobBlock (some n) f rows s) (jobBlock none f rows s) :=
  ((jobInit_cutAt n f s rows).andThen fun u => jobSteady_cutAt n f u rows _).andThen fun u =>
    forRows_cutAt n u (fun r v => writeback_cutAt n f v r _) rows

theorem jobBlocks_cutAt (rb k : Nat) :
    Micro.CutAt n s (jobBlocks (some n) f rb k s) (jobBlocks none f rb k s) := by
  induction k generalizing s with
  | zero => exact cutAt_of_quiet rfl
  | succ k ih =>
    refine (jobBlock_cutAt n f s (s.blockRows rb)).andThen fun u => ?_
    dsimp only
    split
    · exact cutAt_of_quiet rfl
    · exact (ih _).after rfl

theorem jobTiles_cutAt (rb k : Nat) :
    Micro.CutAt n s (jobTiles (some n) f rb k s) (jobTiles none f rb k s) := by
  induction k generalizing s with
  | zero => exact cutAt_of_quiet rfl
  | succ k ih =>
    have hrows : Micro.CutAt n s
        (jobBlocks (some n) f rb (s.mEnd.toNat - s.mStart.toNat) { s with mCur := s.mStart })
        (jobBlocks none f rb (s.mEnd.toNat - s.mStart.toNat) { s with mCur := s.mStart }) :=
      (jobBlocks_cutAt n f _ rb _).after rfl
    refine hrows.andThen fun u => ?_
    dsimp only
    split
    · exact cutAt_of_quiet rfl
    · exact (ih _).after rfl

theorem jobRun_cutAt (rb : Nat) : Micro.CutAt n s (jobRun (some n) f rb s) (jobRun none f rb s) := by
  unfold jobRun
  dsimp only
  split
  · exact cutAt_of_quiet rfl
  · exact (jobTiles_cutAt n f _ rb _).after rfl

end

/-! ### Commands -/

/-- The lane slots and the coefficients, which a warm reset keeps (spec/70_reset_and_hazards.md R291). -/
def State.held (s : State) : Vector LanePair 4 × Vector LanePair 2 × LanePair × Vector Coefficient 4 :=
  (s.acc, s.bbuf, s.wbs, s.scal)

theorem held_eq_iff {s t : State} :
    s.held = t.held ↔ s.acc = t.acc ∧ s.bbuf = t.bbuf ∧ s.wbs = t.wbs ∧ s.scal = t.scal := by
  simp [State.held]

/-- What the end of a command leaves alone: the slots, the coefficients and the requests made. -/
theorem raiseFault_held_trace (s : State) (c : Cause) (i : Nat) :
    (s.raiseFault c i).held = s.held ∧ (s.raiseFault c i).trace = s.trace := by
  rw [raiseFault_frame]
  exact ⟨rfl, rfl⟩

theorem finish_held_trace (m : Micro) : m.finish.held = m.state.held ∧ m.finish.trace = m.state.trace := by
  cases m with
  | done u => exact ⟨rfl, rfl⟩
  | raised c i u => exact raiseFault_held_trace u c i
  | cut u => exact ⟨rfl, rfl⟩

theorem csrWrite_held_trace (s : State) (r : Csr) :
    (s.csrWrite r).state.held = s.held ∧ (s.csrWrite r).state.trace = s.trace := by
  cases r with
  | fmt => unfold State.csrWrite; dsimp only; split <;> exact ⟨rfl, rfl⟩
  | _ => exact ⟨rfl, rfl⟩

section
variable (n : Nat) (s : State)

theorem runCld_cutAt (vsel : BitVec 2) : Micro.CutAt n s (runCld (some n) vsel s) (runCld none vsel s) := by
  unfold runCld
  split
  · exact cutAt_of_quiet rfl
  · exact needFormat_cutAt fun f => needVcfg_cutAt (vload_cutAt n f s _ _) f _ _

theorem runCst_cutAt (vsel : BitVec 2) : Micro.CutAt n s (runCst (some n) vsel s) (runCst none vsel s) := by
  unfold runCst
  split
  · exact cutAt_of_quiet rfl
  · exact needFormat_cutAt fun f => needVcfg_cutAt (vstore_cutAt n f s _ _) f _ _

theorem runSld_cutAt (row : BitVec 2) : Micro.CutAt n s (runSld (some n) row s) (runSld none row s) :=
  needFormat_cutAt fun f => sload_cutAt n f s row _

theorem runCzero_cutAt (mask : BitVec 4) : Micro.CutAt n s (runCzero mask s) (runCzero mask s) :=
  needFormat_cutAt fun f => needVcfg_cutAt (cut := .done (s.czero f.acc mask))
    (cutAt_of_quiet (by rw [state_done, czero_frame])) f _ _

theorem runCmac_cutAt (row : BitVec 2) (buf : BitVec 1) :
    Micro.CutAt n s (runCmac row buf s) (runCmac row buf s) :=
  needFormat_cutAt fun f => needVcfg_cutAt (s := s) (cut := .done (s.cmac f row buf)) (cutAt_of_quiet rfl) f _ _

theorem runWb_cutAt (row : BitVec 2) : Micro.CutAt n s (runWb (some n) row s) (runWb none row s) :=
  needFormat_cutAt fun f => needVcfg_cutAt (writeback_cutAt n f s row _) f _ _

theorem runMm2_cutAt : Micro.CutAt n s (runMm2 (some n) s) (runMm2 none s) :=
  needFormat_cutAt fun f => jobRun_cutAt n f s 2

theorem runMm4_cutAt : Micro.CutAt n s (runMm4 (some n) s) (runMm4 none s) :=
  needFormat_cutAt fun f => jobRun_cutAt n f s 4

theorem runMm_cutAt : Micro.CutAt n s (runMm (some n) s) (runMm none s) :=
  needFormat_cutAt fun f => (jobRun_cutAt n f s.fullRanges _).after rfl

end

/-- The command that ends in `u`, cut right before request number `n` of the trace, has come as far as `cut n`; what its
end adds to its run is seen neither in the slots and the coefficients nor in the requests. -/
def State.CutsTo (s u : State) (cut : Nat → Micro) : Prop :=
  ∃ full : Micro, (∀ n, Micro.CutAt n s (cut n) full) ∧ u.held = full.state.held ∧ u.trace = full.state.trace

section
variable {s u : State} {cut : Nat → Micro}

theorem cutsTo_quiet (h : u.held = s.held ∧ u.trace = s.trace) : s.CutsTo u fun _ => .done s :=
  ⟨.done s, fun _ => cutAt_of_quiet rfl, h⟩

theorem cutsTo_finish {m : Micro} (h : ∀ n, Micro.CutAt n s (cut n) m) : s.CutsTo m.finish cut :=
  ⟨m, h, finish_held_trace m⟩

theorem unlessFaulted_cutsTo (hfault : s.fault = false) {run : State → State} (h : s.CutsTo (run s) cut) :
    s.CutsTo (s.unlessFaulted run) cut := by rwa [unlessFaulted_running hfault]

theorem exec_cutsTo {i : Instr} (hfault : s.fault = false) (hexec : exec i s = .next u) :
    s.CutsTo u fun n => runUntil i n s := by
  cases i with
  | nop => cases hexec; exact unlessFaulted_cutsTo hfault (cutsTo_quiet ⟨rfl, rfl⟩)
  | sreset => cases hexec; exact cutsTo_quiet ⟨rfl, rfl⟩
  | csrw csr =>
    cases hexec
    refine unlessFaulted_cutsTo hfault (cutsTo_quiet ?_)
    split
    · exact raiseFault_held_trace s _ _
    · rw [(finish_held_trace _).1, (finish_held_trace _).2]; exact csrWrite_held_trace s _
  | csrr csr =>
    cases hexec
    refine cutsTo_quiet ?_
    split
    · exact raiseFault_held_trace s _ _
    · exact ⟨rfl, rfl⟩
  | vlreq ew grp =>
    cases hexec
    refine unlessFaulted_cutsTo hfault (cutsTo_quiet ?_)
    split
    · exact raiseFault_held_trace s _ _
    · exact ⟨rfl, rfl⟩
  | cld vsel => cases hexec; exact unlessFaulted_cutsTo hfault (cutsTo_finish fun n => runCld_cutAt n s vsel)
  | cst vsel => cases hexec; exact unlessFaulted_cutsTo hfault (cutsTo_finish fun n => runCst_cutAt n s vsel)
  | sld row => cases hexec; exact unlessFaulted_cutsTo hfault (cutsTo_finish fun n => runSld_cutAt n s row)
  | czero mask => cases hexec; exact unlessFaulted_cutsTo hfault (cutsTo_finish fun n => runCzero_cutAt n s mask)
  | cmac row buf => cases hexec; exact unlessFaulted_cutsTo hfault (cutsTo_finish fun n => runCmac_cutAt n s row buf)
  | wb row => cases hexec; exact unlessFaulted_cutsTo hfault (cutsTo_finish fun n => runWb_cutAt n s row)
  | mm2 => cases hexec; exact unlessFaulted_cutsTo hfault (cutsTo_finish fun n => runMm2_cutAt n s)
  | mm4 => cases hexec; exact unlessFaulted_cutsTo hfault (cutsTo_finish fun n => runMm4_cutAt n s)
  | mm => cases hexec; exact unlessFaulted_cutsTo hfault (cutsTo_finish fun n => runMm_cutAt n s)

/-- Cut before its request number `k`, counted from 0, the command has made its first `k` requests; if it makes no more,
it is where it ends. -/
theorem State.CutsTo.requests (h : s.CutsTo u cut) :
    ∃ made, u.trace = made ++ s.trace ∧ ∀ k,
      (cut (s.trace.length + k)).state.trace = (made.reverse.take k).reverse ++ s.trace ∧
      (made.length ≤ k → (cut (s.trace.length + k)).state.held = u.held) := by
  obtain ⟨full, hcut, hheld, htrace⟩ := h
  obtain ⟨made, hmade⟩ := (hcut 0).adds
  refine ⟨made, htrace.trans hmade.symm, fun k => ?_⟩
  rw [List.take_reverse, List.reverse_reverse]
  rcases (hcut (s.trace.length + k)).agrees (Nat.le_add_right ..) with
    ⟨heq, hlength⟩ | ⟨t, heq, ht, hsuffix, hlonger⟩ <;> rw [heq]
  · rw [← hmade, List.length_append] at hlength
    have hall : made.length - k = 0 := by omega
    exact ⟨by rw [hall, List.drop_zero, hmade], fun _ => hheld.symm⟩
  · rw [← hmade, List.length_append] at hlonger
    refine ⟨?_, fun hk => by omega⟩
    calc t.trace = (made ++ s.trace).drop ((made ++ s.trace).length - t.trace.length) := by
          rw [hmade]; exact List.suffix_iff_eq_drop.1 hsuffix
      _ = (made ++ s.trace).drop (made.length - k) := by
          rw [ht, List.length_append]; congr 1; omega
      _ = made.drop (made.length - k) ++ s.trace := List.drop_append_of_le_length (Nat.sub_le ..)

end

end Sys2Proof.Machine
end

section
/-! A hardware reset in the middle of a command (spec/70_reset_and_hazards.md R290, R291, 93_implementation_defined.md
U9): the requests it leaves made, and what a warm one leaves in the slots and the coefficients. -/

namespace Sys2Proof.Machine

/-! ### The command on the interface -/

section
variable {s : State} (k : Nat)

/-- Of a command that is not run there is no progress (spec/30_encoding.md R95, 60_exceptions.md R267). -/
theorem progress_of_illegal {e : DecodeError} (hdecode : decode s.port.cmd = .error e) : s.progress k = s := by
  simp only [State.progress, hdecode]

theorem progress_of_faulted (hfault : s.fault = true) : s.progress k = s := by
  unfold State.progress
  split
  · rfl
  · exact if_pos hfault

theorem progress_of_running {i : Instr} (hdecode : decode s.port.cmd = .ok i) (hfault : s.fault = false) :
    s.progress k = (runUntil i (s.trace.length + k) s).state := by
  simp [State.progress, hdecode, hfault]

/-- What holds of the state before the command, and of every state its rules can be cut in, holds of its progress. -/
theorem progress_of_runUntil {P : State → Prop} (hs : P s)
    (hrun : ∀ i n, decode s.port.cmd = .ok i → P (runUntil i n s).state) : P (s.progress k) := by
  cases hdecode : decode s.port.cmd with
  | error e => rwa [progress_of_illegal k hdecode]
  | ok i =>
    cases hfault : s.fault with
    | true => rwa [progress_of_faulted k hfault]
    | false => rw [progress_of_running k hdecode hfault]; exact hrun i _ hdecode

end

/-- The progress of an accepted record is its command, cut. -/
theorem accept_cutsTo {s u : State} {c : Command} (h : s.accept c = .next u) :
    ∃ cut, ({ s with port := c } : State).CutsTo u cut ∧
      ∀ k, ({ s with port := c } : State).progress k = (cut (s.trace.length + k)).state := by
  cases hdecode : decode c.cmd with
  | error e =>
    rw [accept_error hdecode] at h
    cases h
    exact ⟨_, cutsTo_quiet (raiseFault_held_trace _ _ _), fun k => progress_of_illegal k hdecode⟩
  | ok i =>
    rcases Bool.eq_false_or_eq_true s.fault with hfault | hfault
    · refine ⟨_, cutsTo_quiet ?_, fun k => progress_of_faulted k hfault⟩
      by_cases hsreset : decode c.cmd = .ok .sreset
      · cases (accept_ok hsreset).symm.trans h
        exact ⟨rfl, rfl⟩
      · rcases accept_faulted_cases hfault hsreset with h' | ⟨_, _, -, -, h'⟩ <;>
        · cases h'.symm.trans h
          exact ⟨rfl, rfl⟩
    · rw [accept_ok hdecode] at h
      exact ⟨_, exec_cutsTo hfault h, fun k => progress_of_running k hdecode hfault⟩

/-- What a command keeps outside the engine however far it has come: its responses are still to come, and the stream of
inputs is not read. -/
theorem progress_responses_inputs (s : State) (k : Nat) :
    (s.progress k).responses = s.responses ∧ (s.progress k).inputs = s.inputs :=
  progress_of_runUntil (P := fun u => u.responses = s.responses ∧ u.inputs = s.inputs) k ⟨rfl, rfl⟩ fun i n _ =>
    have heffect := (runUntil_does s i n).effect
    ⟨heffect.responses, heffect.keeps State.inputs fun u v hu => by cases hu <;> simp⟩

theorem runUntil_accesses (s : State) (i : Instr) (n : Nat) : s.Accesses s.format (runUntil i n s).state := by
  cases i with
  | nop | sreset | csrw | csrr | vlreq => exact .refl
  | cld vsel => exact runCld_accesses _ s vsel
  | cst vsel => exact runCst_accesses _ s vsel
  | sld row => exact runSld_accesses _ s row
  | czero mask => exact runCzero_accesses s mask
  | cmac row buf => exact runCmac_accesses s row buf
  | wb row => exact runWb_accesses _ s row
  | mm2 => exact runMm2_accesses _ s
  | mm4 => exact runMm4_accesses _ s
  | mm => exact runMm_accesses _ s

/-- The memory is what the requests made so far leave. -/
theorem progress_mem {s : State} {k : Nat} {made : List Request} (h : (s.progress k).trace = made ++ s.trace) :
    (s.progress k).mem = replayWrites s.space s.mem made.reverse := by
  obtain ⟨-, made', htrace, hmem, -⟩ : s.Accesses s.format (s.progress k) :=
    progress_of_runUntil k .refl fun i n _ => runUntil_accesses s i n
  rwa [List.append_cancel_right (h.symm.trans htrace)]

/-! ### Slots that a command never writes -/

section
variable {α : Type} {g : State → α} {s : State}

theorem andThen_unseen {m : Micro} {k : State → Micro} (h : g m.state = g s) (hk : ∀ u, g (k u).state = g u) :
    g (m.andThen k).state = g s := by
  cases m with
  | done u => exact (hk u).trans h
  | raised c i u => exact h
  | cut u => exact h

theorem needFormat_unseen {k : Format → Micro} (hk : ∀ f, g (k f).state = g s) : g (s.needFormat k).state = g s := by
  cases hf : s.format with
  | none => rw [needFormat_none hf, state_raised]
  | some f => rw [needFormat_some hf, hk]

theorem needVcfg_unseen {m : Micro} (hm : g m.state = g s) (f : Format) (c : BitVec 2) (b : Bool) :
    g (s.needVcfg f c b m).state = g s := by
  cases hv : s.vcfgOk f c b with
  | true => rw [needVcfg_ok hv, hm]
  | false => rw [needVcfg_mismatch hv, state_raised]

theorem needAligned_unseen {m : Micro} (hm : g m.state = g s) (f : Format) (a : Nat) :
    g (s.needAligned f a m).state = g s := by
  by_cases ha : a % f.eb = 0
  · rw [needAligned_ok ha, hm]
  · rw [needAligned_misaligned ha, state_raised]

end

/-- `g` sees of the state neither the slot `d` nor the model's own logs. -/
structure SlotUnseen {α : Type} (d : SlotName) (g : State → α) : Prop where
  log : ∀ s r, g (State.logRequest s r) = g s
  slot : ∀ s x, g (State.setSlot s d x) = g s
  draw : ∀ s n, g { s with draws := n } = g s

theorem acc_slotUnseen (d : SlotName) : SlotUnseen d State.acc :=
  ⟨fun _ _ => rfl, fun s => setSlot_acc s d, fun _ _ => rfl⟩

theorem bbuf_slotUnseen : SlotUnseen .wbs State.bbuf := ⟨fun _ _ => rfl, fun _ _ => rfl, fun _ _ => rfl⟩

section
variable {α : Type} {d : SlotName} {g : State → α} (hg : SlotUnseen d g) (stop : Option Nat) (f : Format) (s : State)
include hg

theorem memRead_unseen (a : Nat) (w : Width) {onError : State → Micro} {onData : BitVec w.bits → State → Micro}
    (herror : ∀ u, g (onError u).state = g u) (hdata : ∀ v u, g (onData v u).state = g u) :
    g ((s.memRead stop a w).andThen onError onData).state = g s := by
  rcases memRead_cases s stop a w with ⟨-, h⟩ | ⟨-, -, h⟩ | ⟨-, -, h⟩ <;> rw [h]
  · rfl
  · exact (hdata _ _).trans (hg.log _ _)
  · exact (herror _).trans (hg.log _ _)

theorem loadElements_unseen (a n : Nat) : g (loadElements stop f d a n s).state = g s := by
  induction n with
  | zero => rfl
  | succ n ih =>
    refine andThen_unseen ih fun u => ?_
    rw [loadElement_eq]
    exact memRead_unseen hg stop u _ _ (fun _ => rfl) fun _ v =>
      memRead_unseen hg stop v _ _ (fun _ => rfl) fun _ _ => hg.slot _ _

theorem vload_unseen (a : Nat) : g (vload stop f d a s).state = g s := by
  rw [vload_eq]
  refine needAligned_unseen ?_ f a
  have h := loadElements_unseen hg stop f s a s.vl.toNat
  cases hm : loadElements stop f d a s.vl.toNat s with
  | raised c i u => rw [hm] at h; exact ((hg.draw _ _).trans (hg.slot _ _)).trans h
  | done u | cut u => rwa [hm] at h

end

section
variable {W : List Part} {s t : State}

theorem Effect.lanes_eq (h : Effect W s t) (hW : .lanes ∉ W) : t.acc = s.acc ∧ t.bbuf = s.bbuf ∧ t.wbs = s.wbs := by
  have hkeeps := h.keeps (fun u => (u.acc, u.bbuf, u.wbs)) fun u v hu => by cases hu <;> simp_all
  simpa using hkeeps

theorem Effect.scal_eq (h : Effect W s t) (hW : .coefficients ∉ W) : t.scal = s.scal :=
  h.keeps State.scal fun u v hu => by cases hu <;> simp_all

theorem lanes_mem_partsWritten {i : Instr} : .lanes ∈ partsWritten i ↔
    (∃ v, i = .cld v) ∨ (∃ m, i = .czero m) ∨ (∃ r b, i = .cmac r b) ∨ (∃ r, i = .wb r) ∨ isJob i := by
  cases i <;> simp [partsWritten, isJob, jobWrites]

end

section
variable (stop : Option Nat) (s : State)

theorem runCld_acc (vsel : BitVec 2) : (runCld stop vsel s).state.acc = s.acc := by
  unfold runCld
  split
  · rfl
  · exact needFormat_unseen fun f => needVcfg_unseen (vload_unseen (acc_slotUnseen _) stop f s _) f _ _

theorem vstore_lanes (f : Format) (d : SlotName) (a : Nat) :
    (vstore stop f d a s).state.acc = s.acc ∧ (vstore stop f d a s).state.bbuf = s.bbuf := by
  have hlanes := (storeElements_does (W := [.memory]) stop f s (by simp) d a s.vl.toNat).effect.lanes_eq (by simp)
  obtain ⟨hacc, hbbuf, -⟩ := hlanes
  exact ⟨needAligned_unseen hacc f a, needAligned_unseen hbbuf f a⟩

theorem writeback_unseen {α : Type} {g : State → α} (hg : SlotUnseen .wbs g)
    (hstore : ∀ u f a, g (vstore stop f .wbs a u).state = g u) (f : Format) (r : BitVec 2) (a : Nat) :
    g (writeback stop f r a s).state = g s := by
  refine andThen_unseen (vload_unseen hg stop f s a) fun u => ?_
  exact (hstore _ f a).trans (hg.slot u _)

theorem runWb_acc (row : BitVec 2) : (runWb stop row s).state.acc = s.acc :=
  needFormat_unseen fun f => needVcfg_unseen (writeback_unseen stop s (acc_slotUnseen .wbs)
    (fun u f a => (vstore_lanes stop u f .wbs a).1) f row _) f _ _

theorem runWb_bbuf (row : BitVec 2) : (runWb stop row s).state.bbuf = s.bbuf :=
  needFormat_unseen fun f => needVcfg_unseen (writeback_unseen stop s bbuf_slotUnseen
    (fun u f a => (vstore_lanes stop u f .wbs a).2) f row _) f _ _

/-- CZERO and CMAC write accumulators alone. -/
theorem runCzero_unseen {α : Type} {g : State → α} (hg : ∀ a, g { s with acc := a } = g s) (mask : BitVec 4) :
    g (runCzero mask s).state = g s :=
  needFormat_unseen fun f => needVcfg_unseen (m := .done _) (by rw [state_done, czero_frame]; exact hg _) f _ _

theorem runCmac_unseen {α : Type} {g : State → α} (hg : ∀ a, g { s with acc := a } = g s) (row : BitVec 2)
    (buf : BitVec 1) : g (runCmac row buf s).state = g s :=
  needFormat_unseen fun f => needVcfg_unseen (m := .done (s.cmac f row buf)) (hg _) f _ _

end

/-- The slots and coefficients that the command `i` never writes are in `t` as they are in `s`. -/
def State.KeptBy (i : Instr) (s t : State) : Prop :=
  ((∀ m, i ≠ .czero m) → (∀ r b, i ≠ .cmac r b) → t.acc = s.acc) ∧
  ((∀ v, i ≠ .cld v) → t.bbuf = s.bbuf) ∧
  ((∀ v, i ≠ .cld v) → (∀ r, i ≠ .wb r) → t.wbs = s.wbs) ∧
  ((∀ r, i ≠ .sld r) → t.scal = s.scal)

theorem runUntil_keptBy {i : Instr} (hjob : ¬ isJob i) (n : Nat) (s : State) :
    s.KeptBy i (runUntil i n s).state := by
  have heffect := (runUntil_does s i n).effect
  have hscal (h : ∀ r, i ≠ .sld r) : (runUntil i n s).state.scal = s.scal :=
    heffect.scal_eq (by simp [coefficients_mem_partsWritten, h, hjob])
  have hlanes := heffect.lanes_eq
  rw [lanes_mem_partsWritten] at hlanes
  cases i with
  | cld vsel =>
    exact ⟨fun _ _ => runCld_acc _ s vsel, fun h => absurd rfl (h vsel), fun h => absurd rfl (h vsel), hscal⟩
  | czero mask =>
    exact ⟨fun h => absurd rfl (h mask), fun _ => runCzero_unseen s (g := State.bbuf) (fun _ => rfl) mask,
      fun _ _ => runCzero_unseen s (g := State.wbs) (fun _ => rfl) mask, hscal⟩
  | cmac row buf =>
    exact ⟨fun _ h => absurd rfl (h row buf), fun _ => runCmac_unseen s (g := State.bbuf) (fun _ => rfl) row buf,
      fun _ _ => runCmac_unseen s (g := State.wbs) (fun _ => rfl) row buf, hscal⟩
  | wb row => exact ⟨fun _ _ => runWb_acc _ s row, fun _ => runWb_bbuf _ s row, fun _ h => absurd rfl (h row), hscal⟩
  | _ =>
    obtain ⟨hacc, hbbuf, hwbs⟩ := hlanes (by simpa using hjob)
    exact ⟨fun _ _ => hacc, fun _ => hbbuf, fun _ _ => hwbs, hscal⟩

theorem progress_keptBy {s : State} {i : Instr} (hdecode : decode s.port.cmd = .ok i) (hjob : ¬ isJob i) (k : Nat) :
    s.KeptBy i (s.progress k) := by
  refine progress_of_runUntil k ⟨fun _ _ => rfl, fun _ => rfl, fun _ _ => rfl, fun _ => rfl⟩ fun i' n hdecode' => ?_
  cases hdecode.symm.trans hdecode'
  exact runUntil_keptBy hjob n s

/-! ### The obligation -/

/-- Whose slots and coefficients a warm reset in the middle of the command on the interface keeps: those of the
command's progress, by how far the lane work had got (log 8). -/
def State.laneProgress (s : State) (requests work : Nat) : State :=
  if work = 0 then s else s.progress (min (work - 1) requests)

theorem resetWithin_warm_held (s : State) (c : Command) (requests work : Nat) :
    (s.resetWithin .warm c requests work).held = (({ s with port := c } : State).laneProgress requests work).held := rfl

theorem resetWithin_outside (s : State) (k : ResetKind) (c : Command) (requests work : Nat) :
    (s.resetWithin k c requests work).mem = (({ s with port := c } : State).progress requests).mem ∧
      (s.resetWithin k c requests work).trace = (({ s with port := c } : State).progress requests).trace ∧
      (s.resetWithin k c requests work).responses = s.responses ∧
      (s.resetWithin k c requests work).inputs = s.inputs := by
  obtain ⟨hmem, hinputs, hresponses, htrace⟩ := hardReset_outside
    { ({ s with port := c } : State).progress requests with
      acc := (({ s with port := c } : State).laneProgress requests work).acc
      bbuf := (({ s with port := c } : State).laneProgress requests work).bbuf
      wbs := (({ s with port := c } : State).laneProgress requests work).wbs
      scal := (({ s with port := c } : State).laneProgress requests work).scal } k
  obtain ⟨hresponses', hinputs'⟩ := progress_responses_inputs { s with port := c } requests
  exact ⟨hmem, htrace, hresponses.trans hresponses', hinputs.trans hinputs'⟩

theorem laneProgress_succ (s : State) (requests work : Nat) :
    s.laneProgress requests (work + 1) = s.progress (min work requests) := rfl

theorem laneProgress_keptBy {s : State} {i : Instr} (hdecode : decode s.port.cmd = .ok i) (hjob : ¬ isJob i)
    (requests work : Nat) : s.KeptBy i (s.laneProgress requests work) := by
  cases work with
  | zero => exact ⟨fun _ _ => rfl, fun _ => rfl, fun _ _ => rfl, fun _ => rfl⟩
  | succ work => exact progress_keptBy hdecode hjob _

section
variable {s u : State} {c : Command} (haccept : s.accept c = .next u)
include haccept

/-- The requests of an accepted record, and how many of them its progress has made. -/
theorem accept_progress : ∃ made, u.trace = made ++ s.trace ∧ ∀ k,
    (({ s with port := c } : State).progress k).trace = (made.reverse.take k).reverse ++ s.trace ∧
    (made.length ≤ k → (({ s with port := c } : State).progress k).held = u.held) := by
  obtain ⟨cut, hcuts, hprogress⟩ := accept_cutsTo haccept
  obtain ⟨made, hmade, hcut⟩ := hcuts.requests
  exact ⟨made, hmade, fun k => hprogress k ▸ hcut k⟩

theorem resetWithin_requests (k : ResetKind) (requests work : Nat) : ∃ made, u.trace = made ++ s.trace ∧
    (s.resetWithin k c requests work).trace = (made.reverse.take requests).reverse ++ s.trace ∧
    (s.resetWithin k c requests work).mem = replayWrites s.space s.mem (made.reverse.take requests) ∧
    (work = 0 → (s.resetWithin .warm c requests work).held = s.held) ∧
    (made.length ≤ requests → made.length < work → (s.resetWithin .warm c requests work).held = u.held) := by
  obtain ⟨made, hmade, hprogress⟩ := accept_progress haccept
  obtain ⟨hmem, htrace, -, -⟩ := resetWithin_outside s k c requests work
  have hreplay := progress_mem (hprogress requests).1
  rw [List.reverse_reverse] at hreplay
  refine ⟨made, hmade, htrace.trans (hprogress requests).1, hmem.trans hreplay, ?_, fun hrequests hwork => ?_⟩
  · rintro rfl
    rfl
  · obtain ⟨work, rfl⟩ := Nat.exists_eq_succ_of_ne_zero (Nat.ne_zero_of_lt hwork)
    rw [resetWithin_warm_held, laneProgress_succ]
    exact (hprogress _).2 (le_min (Nat.le_of_lt_succ hwork) hrequests)

end

/-- Settles O50: the requests are the first ones of the command run to its end, and what the slots hold is the progress
of its lane work. -/
theorem resetInterruptsCommand : Obligations.ResetInterruptsCommand := by
  intro s k c requests work rest hinputs
  obtain ⟨u, haccept⟩ := accept_answers { s with inputs := rest } c
  obtain ⟨made, hmade, htrace, hmem, hnone, hall⟩ := resetWithin_requests haccept k requests work
  obtain ⟨-, -, hresponses, hrest⟩ := resetWithin_outside { s with inputs := rest } k c requests work
  refine ⟨_, u, made, step_resetDuring hinputs, (step_command rfl).trans haccept, hardReset_controlReset _ k,
    hresponses, hrest, resetWithin_params _ k c requests work, hmade, htrace, hmem, ?_⟩
  rintro rfl
  refine ⟨fun hwork => held_eq_iff.1 (hnone hwork), fun hrequests hwork => held_eq_iff.1 (hall hrequests hwork),
    fun i hdecode hjob => ?_⟩
  exact laneProgress_keptBy (s := { s with inputs := rest, port := c }) hdecode hjob requests work

end Sys2Proof.Machine
end
